-- ==== Sys2Proof/Word.lean ====
section
/-! DEFINITION. The word types of the MD5 CORE. Every value is unsigned (R12); data words have 32 bits (R9), operand
registers 64 (R39 to R41), memory units 8 (R60). -/

namespace Sys2Proof

/-- One byte of message memory, of OUT or of HEX. -/
abbrev Byte := BitVec 8

/-- One 32-bit data word, and a 32-bit host register or command word (R9, R44, R90). -/
abbrev Word := BitVec 32

/-- The value of a 64-bit operand register SRC, LEN or NBLK (R39 to R41). -/
abbrev DWord := BitVec 64

end Sys2Proof
end

