-- ==== Sys2Proof/Config.lean ====
section
/-! DEFINITION. What does not change while the machine runs: the fixed parameters of R9, the bound of R10, and the two
values the model chooses where the spec leaves the message memory open (R46, U5). The ROM, which R45 counts as a
parameter too, stands in Machine/Rom.lean. -/

namespace Sys2Proof.Config

/-- Bytes of one block (R9). -/
def blockBytes : Nat := 64

/-- Rounds of one compression (R9). -/
def rounds : Nat := 64

/-- Lanes of the batched unit, one stream each (R9). -/
def lanes : Nat := 8

/-- Bytes read by one batch: eight contiguous blocks (R62, R208). -/
def batchBytes : Nat := 512

/-- The largest MEM_SIZE the spec allows (R10). -/
def memSizeMax : Nat := 2 ^ 61 - 1

/-- DESIGN CHOICE, unsafe (notes/assumptions/2.md): the MEM_SIZE of `State.reset`. R10 leaves MEM_SIZE open; statements
quantify over every state and so over every MEM_SIZE. -/
def memSizeAtReset : Nat := 4096

/-- DESIGN CHOICE, unsafe (notes/assumptions/1.md): what a byte of MEM that nothing has written reads as. The spec says
the content at reset is unspecified (R46, R48); statements quantify over every content. -/
def unwrittenByte : Byte := 0x00

end Sys2Proof.Config
end

