-- ==== Sys2Proof/Machine/Regs.lean ====
section
/-! DEFINITION. The shapes of the register file: a four-word state, the stream bank, the status register, and the
host's register numbers (R13, R21, R24, R34, R44). -/

namespace Sys2Proof.Machine

/-- A four-word state (a, b, c, d): the digest state H, or the state of one stream (R21, R24). -/
structure Quad where
  a : Word
  b : Word
  c : Word
  d : Word
  deriving DecidableEq, Repr

/-- Word k of a state: 0 is a, 1 is b, 2 is c, 3 is d (R13, R24). -/
def Quad.get (q : Quad) (k : Fin 4) : Word :=
  match k with
  | 0 => q.a
  | 1 => q.b
  | 2 => q.c
  | 3 => q.d

/-- The state with word k replaced. -/
def Quad.set (q : Quad) (k : Fin 4) (v : Word) : Quad :=
  match k with
  | 0 => { q with a := v }
  | 1 => { q with b := v }
  | 2 => { q with c := v }
  | 3 => { q with d := v }

/-- The stream bank HS: eight independent four-word states (R24). -/
structure Bank where
  s0 : Quad
  s1 : Quad
  s2 : Quad
  s3 : Quad
  s4 : Quad
  s5 : Quad
  s6 : Quad
  s7 : Quad
  deriving DecidableEq, Repr

/-- The state of stream s. -/
def Bank.get (b : Bank) (s : Fin 8) : Quad :=
  match s with
  | 0 => b.s0
  | 1 => b.s1
  | 2 => b.s2
  | 3 => b.s3
  | 4 => b.s4
  | 5 => b.s5
  | 6 => b.s6
  | 7 => b.s7

/-- The bank with the state of stream s replaced. -/
def Bank.set (b : Bank) (s : Fin 8) (q : Quad) : Bank :=
  match s with
  | 0 => { b with s0 := q }
  | 1 => { b with s1 := q }
  | 2 => { b with s2 := q }
  | 3 => { b with s3 := q }
  | 4 => { b with s4 := q }
  | 5 => { b with s5 := q }
  | 6 => { b with s6 := q }
  | 7 => { b with s7 := q }

/-- The bank whose stream s is `f s`. -/
def Bank.ofFn (f : Fin 8 → Quad) : Bank :=
  ⟨f 0, f 1, f 2, f 3, f 4, f 5, f 6, f 7⟩

/-- The error causes of R271. -/
inductive Cause where
  /-- E_ILLEGAL: the word written to CMD is no command word. -/
  | illegal
  /-- E_STATE: a DIGEST on an instance that is not fresh. -/
  | state
  /-- E_RESOURCE: the bytes to read do not lie inside MEM. -/
  | resource
  deriving DecidableEq, Repr

/-- The code recorded in ERRCODE (R271). -/
def Cause.code : Cause → BitVec 4
  | .illegal => 1
  | .state => 2
  | .resource => 3

/-- STATUS. Only the four fields are stored: bit 3 and bits [31:8] are reserved and always read 0 (R34, U7), and the
host cannot write the register. -/
structure Status where
  /-- FRESH, bit 0 (R35). -/
  fresh : Bool
  /-- DONE, bit 1 (R36). -/
  done : Bool
  /-- ERR, bit 2 (R37). -/
  err : Bool
  /-- ERRCODE, bits [7:4] (R37). -/
  errcode : BitVec 4
  deriving DecidableEq, Repr

/-- A host-visible register, by name (R44). -/
inductive Reg where
  | cmd
  | status
  | src
  | len
  | nblk
  | h (k : Fin 4)
  | hs (s : Fin 8) (k : Fin 4)
  | out (n : Fin 4)
  | hex (n : Fin 8)
  /-- A number to which the table of R44 gives no register. -/
  | unassigned
  deriving DecidableEq, Repr

/-- The register a host access with this number reaches (R44). -/
def Reg.ofNumber (n : Nat) : Reg :=
  if n = 0 then .cmd
  else if n = 1 then .status
  else if n = 2 then .src
  else if n = 3 then .len
  else if n = 4 then .nblk
  else if 8 ≤ n ∧ n < 12 then .h (Fin.ofNat 4 (n - 8))
  else if 16 ≤ n ∧ n < 48 then .hs (Fin.ofNat 8 ((n - 16) / 4)) (Fin.ofNat 4 ((n - 16) % 4))
  else if 48 ≤ n ∧ n < 52 then .out (Fin.ofNat 4 (n - 48))
  else if 56 ≤ n ∧ n < 64 then .hex (Fin.ofNat 8 (n - 56))
  else .unassigned

/-- The number of a named register (R44). For `unassigned` it is 5, the first number without a register. -/
def Reg.number : Reg → Nat
  | .cmd => 0
  | .status => 1
  | .src => 2
  | .len => 3
  | .nblk => 4
  | .h k => 8 + k.val
  | .hs s k => 16 + 4 * s.val + k.val
  | .out n => 48 + n.val
  | .hex n => 56 + n.val
  | .unassigned => 5

/-- Whether a host write to the register uses its value as a 32-bit word (R44). The 64-bit registers take the whole
value, and the read-only registers and unassigned numbers ignore it. -/
def Reg.takesWord : Reg → Bool
  | .cmd => true
  | .h _ => true
  | .hs _ _ => true
  | .status => false
  | .src => false
  | .len => false
  | .nblk => false
  | .out _ => false
  | .hex _ => false
  | .unassigned => false

end Sys2Proof.Machine
end

