-- ==== Sys2Proof/Machine/HostAction.lean ====
section
/-! DEFINITION. The host's actions of R99, and the platform's reset of R300. A program is a finite list of them (R102). -/

namespace Sys2Proof.Machine

/-- One indivisible action from outside the engine. -/
inductive HostAction where
  /-- WR: write `value` to the register with this number. -/
  | wr (reg : Nat) (value : DWord)
  /-- RD: read the register with this number; the value is an output of the program. -/
  | rd (reg : Nat)
  /-- MEMW: write the bytes to MEM from byte address `addr` up. -/
  | memw (addr : Nat) (bytes : List Byte)
  /-- The platform applies reset (R300). -/
  | reset
  deriving DecidableEq, Repr

/-- MEMS: MEMW with the character codes of the text, no terminator (R99). -/
def HostAction.mems (addr : Nat) (text : String) : HostAction :=
  .memw addr (text.toList.map fun c => BitVec.ofNat 8 c.toNat)

/-- MEMF: MEMW with n copies of one byte (R99). -/
def HostAction.memf (addr n : Nat) (byte : Byte) : HostAction :=
  .memw addr (List.replicate n byte)

end Sys2Proof.Machine
end

