-- ==== Sys2Proof/Syntax.lean ====
section
/-! DEFINITION. The twelve commands of R95, one constructor per row of spec/opcode_table.json. No command word carries an
operand (R93), so no constructor has an argument. -/

namespace Sys2Proof

/-- A command of the MD5 CORE. The suffix is the PATH field: S the scalar unit U1, V the single-stream vectorized unit
U2, B the batched unit U3 (R91). -/
inductive Instr where
  /-- INIT, a fresh instance (R241). -/
  | init
  /-- XFRM.S, one block of H on U1 (R165). -/
  | xfrmS
  /-- XFRM.V, one block of H on U2 (R184). -/
  | xfrmV
  /-- XFRM.B, one block of each of the eight streams HS on U3 (R208). -/
  | xfrmB
  /-- XFRMN.S, NBLK chained blocks of H on U1 (R166). -/
  | xfrmnS
  /-- XFRMN.V, NBLK chained blocks of H on U2 (R185). -/
  | xfrmnV
  /-- XFRMN.B, NBLK blocks dealt to the eight streams (R209). -/
  | xfrmnB
  /-- DIGEST.S, the digest of one whole message (R242). -/
  | digestS
  /-- DIGEST.V, the same on U2 (R243). -/
  | digestV
  /-- DIGEST.B, the same with the batched path permitted (R244). -/
  | digestB
  /-- GETHASH, H rendered as 16 bytes (R247). -/
  | getHash
  /-- GETHEX, H rendered as 32 hexadecimal characters (R248). -/
  | getHex
  deriving DecidableEq, Repr

end Sys2Proof
end

