-- ==== Sys2Proof/WellFormed.lean ====
section
/-! DEFINITION. Well-formedness. A command has no operand (R93), so every `Instr` is well formed. A host action has two
conditions: its value fits the register it is stored in (R44), and a memory write lies inside MEM (R99). -/

namespace Sys2Proof

/-- Every command is well formed: there is no operand to check (R93). -/
def Instr.wf : Instr → Bool
  | .init => true
  | .xfrmS => true
  | .xfrmV => true
  | .xfrmB => true
  | .xfrmnS => true
  | .xfrmnV => true
  | .xfrmnB => true
  | .digestS => true
  | .digestV => true
  | .digestB => true
  | .getHash => true
  | .getHex => true

namespace Machine

/-- The value of a host write fits the register: a register that stores a word takes a value below 2^32 (R44). -/
def HostAction.valueFits (reg : Nat) (value : DWord) : Bool :=
  !(Reg.ofNumber reg).takesWord || decide (value.toNat < 2 ^ 32)

/-- A host memory write of n bytes lies inside MEM: addr + n <= MEM_SIZE (R99). -/
def HostAction.rangeFits (memSize addr n : Nat) : Bool :=
  decide (addr + n ≤ memSize)

/-- The two conditions together, for a machine with this MEM_SIZE. -/
def HostAction.wf (memSize : Nat) : HostAction → Bool
  | .wr reg value => HostAction.valueFits reg value
  | .rd _ => true
  | .memw addr bytes => HostAction.rangeFits memSize addr bytes.length
  | .reset => true

end Machine

end Sys2Proof
end

