-- ==== Sys2Proof/Decode.lean ====
section
/-! DEFINITION. Format C (R90, R91): the decoder, total on every 32-bit word and refusing by name, and after it the
encoder, written from the OP and PATH columns of the table of R95. -/

namespace Sys2Proof

/-- Why a word is no command (R96). -/
inductive DecodeError where
  /-- A bit of [31:6] is set. -/
  | zeroFieldSet
  /-- OP is 0 or 7 to 15. -/
  | opUnassigned
  /-- PATH is 3. -/
  | pathUnassigned
  /-- PATH is 1 or 2 with an operation that has one path only (OP 1, 5, 6). -/
  | pathNotAllowed
  deriving DecidableEq, Repr

/-- OP, bits [3:0] (R91). -/
def opField (w : Word) : BitVec 4 := w.extractLsb' 0 4

/-- PATH, bits [5:4] (R91). -/
def pathField (w : Word) : BitVec 2 := w.extractLsb' 4 2

/-- ZERO, bits [31:6] (R91). -/
def zeroField (w : Word) : BitVec 26 := w.extractLsb' 6 26

/-- The command of an operation that allows PATH = 0 only (R91). -/
def decodeSinglePath (path : Nat) (i : Instr) : Except DecodeError Instr :=
  match path with
  | 0 => .ok i
  | 3 => .error .pathUnassigned
  | _ => .error .pathNotAllowed

/-- The command that PATH selects (R91, R94). -/
def decodePath (path : Nat) (iS iV iB : Instr) : Except DecodeError Instr :=
  match path with
  | 0 => .ok iS
  | 1 => .ok iV
  | 2 => .ok iB
  | _ => .error .pathUnassigned

/-- The command a word stands for, or the reason why it is illegal (R94 to R97). -/
def decode (w : Word) : Except DecodeError Instr :=
  if zeroField w ≠ 0 then .error .zeroFieldSet
  else
    let path := (pathField w).toNat
    match (opField w).toNat with
    | 1 => decodeSinglePath path .init
    | 2 => decodePath path .xfrmS .xfrmV .xfrmB
    | 3 => decodePath path .xfrmnS .xfrmnV .xfrmnB
    | 4 => decodePath path .digestS .digestV .digestB
    | 5 => decodeSinglePath path .getHash
    | 6 => decodeSinglePath path .getHex
    | _ => .error .opUnassigned

/-- The OP column of R95. -/
def Instr.op : Instr → BitVec 4
  | .init => 1
  | .xfrmS => 2
  | .xfrmV => 2
  | .xfrmB => 2
  | .xfrmnS => 3
  | .xfrmnV => 3
  | .xfrmnB => 3
  | .digestS => 4
  | .digestV => 4
  | .digestB => 4
  | .getHash => 5
  | .getHex => 6

/-- The PATH column of R95. -/
def Instr.path : Instr → BitVec 2
  | .init => 0
  | .xfrmS => 0
  | .xfrmV => 1
  | .xfrmB => 2
  | .xfrmnS => 0
  | .xfrmnV => 1
  | .xfrmnB => 2
  | .digestS => 0
  | .digestV => 1
  | .digestB => 2
  | .getHash => 0
  | .getHex => 0

/-- The command word: ZERO, PATH and OP put together (R91). -/
def encode (i : Instr) : Word := (0#26 ++ i.path ++ i.op : BitVec (26 + 2 + 4))

/-- The decoder as the host asks it: a row's bits, numbered as the opcode table numbers them. A command has 32 bits
(R90), so a number with a higher bit set is no command. -/
def decodeTableWord (nbits w : Nat) : Option Instr :=
  if w % 2 ^ nbits < 2 ^ 32 then
    match decode (BitVec.ofNat 32 (w % 2 ^ nbits)) with
    | .ok i => some i
    | .error _ => none
  else none

end Sys2Proof
end

