-- ==== Sys2Proof/Machine/Rom.lean ====
section
/-! DEFINITION. The constants of the hardware: the initial state IV (R21) and the three columns of the ROM (R124, R125,
R126, R129), one list a column, in four quartiles of sixteen rows. The values are the ones the spec's rules print; the
spec marks them as general knowledge (log entry 12). -/

namespace Sys2Proof.Machine

/-- IV, the initial digest state (R21). -/
def iv : Quad := ⟨0x67452301, 0xEFCDAB89, 0x98BADCFE, 0x10325476⟩

/-- The stream bank with IV in every stream (R25). -/
def ivBank : Bank := Bank.ofFn fun _ => iv

/-- The K column of R129. -/
def romK : List Word :=
  [0xD76AA478, 0xE8C7B756, 0x242070DB, 0xC1BDCEEE,
     0xF57C0FAF, 0x4787C62A, 0xA8304613, 0xFD469501,
     0x698098D8, 0x8B44F7AF, 0xFFFF5BB1, 0x895CD7BE,
     0x6B901122, 0xFD987193, 0xA679438E, 0x49B40821]
  ++ [0xF61E2562, 0xC040B340, 0x265E5A51, 0xE9B6C7AA,
     0xD62F105D, 0x02441453, 0xD8A1E681, 0xE7D3FBC8,
     0x21E1CDE6, 0xC33707D6, 0xF4D50D87, 0x455A14ED,
     0xA9E3E905, 0xFCEFA3F8, 0x676F02D9, 0x8D2A4C8A]
  ++ [0xFFFA3942, 0x8771F681, 0x6D9D6122, 0xFDE5380C,
     0xA4BEEA44, 0x4BDECFA9, 0xF6BB4B60, 0xBEBFBC70,
     0x289B7EC6, 0xEAA127FA, 0xD4EF3085, 0x04881D05,
     0xD9D4D039, 0xE6DB99E5, 0x1FA27CF8, 0xC4AC5665]
  ++ [0xF4292244, 0x432AFF97, 0xAB9423A7, 0xFC93A039,
     0x655B59C3, 0x8F0CCC92, 0xFFEFF47D, 0x85845DD1,
     0x6FA87E4F, 0xFE2CE6E0, 0xA3014314, 0x4E0811A1,
     0xF7537E82, 0xBD3AF235, 0x2AD7D2BB, 0xEB86D391]

/-- The S column of R129, five bits a row. -/
def romS : List (BitVec 5) :=
  [7, 12, 17, 22, 7, 12, 17, 22, 7, 12, 17, 22, 7, 12, 17, 22]
   ++ [5, 9, 14, 20, 5, 9, 14, 20, 5, 9, 14, 20, 5, 9, 14, 20]
   ++ [4, 11, 16, 23, 4, 11, 16, 23, 4, 11, 16, 23, 4, 11, 16, 23]
   ++ [6, 10, 15, 21, 6, 10, 15, 21, 6, 10, 15, 21, 6, 10, 15, 21]

/-- The g column of R129, four bits a row. -/
def romG : List (BitVec 4) :=
  [0, 1, 2, 3, 4, 5, 6, 7, 8, 9, 10, 11, 12, 13, 14, 15]
   ++ [1, 6, 11, 0, 5, 10, 15, 4, 9, 14, 3, 8, 13, 2, 7, 12]
   ++ [5, 8, 11, 14, 1, 4, 7, 10, 13, 0, 3, 6, 9, 12, 15, 2]
   ++ [0, 7, 14, 5, 12, 3, 10, 1, 8, 15, 6, 13, 4, 11, 2, 9]

/-- K(i), the additive constant of round i (R124). -/
def kConst (i : Nat) : Word := romK.getD i 0

/-- S(i), the rotation amount of round i (R125). -/
def sAmount (i : Nat) : Nat := (romS.getD i 0).toNat

/-- g(i), the message-word index of round i (R126). -/
def gIndex (i : Nat) : Nat := (romG.getD i 0).toNat

/-- Q(i), the quartile of round i (R127). -/
def quartile (i : Nat) : Nat := i / 16

end Sys2Proof.Machine
end

