-- ==== Sys2Proof/Machine/State.lean ====
section
/-! DEFINITION. The state of one instance of the CORE and of the host side that drives it (R20, R46, R102), the outcome
types, the named updates, and the state after reset (R48, R300). The transient registers of R20 exist only inside one
command and are no part of it (U4, log entry 4). -/

namespace Sys2Proof.Machine

/-- Why the machine stops. Both are about an action of the host that the spec does not describe; no command of the
engine stops: its errors are next states (R272). -/
inductive Fault where
  /-- Raised by the host action MEMW when addr + n > MEM_SIZE, which R99 requires not to happen. Safe. -/
  | hostMemWriteOutOfRange
  /-- Raised by the host action WR when a value of more than 32 bits is written to CMD, H or HS, whose width is 32
  (R44). Safe. -/
  | hostValueTooWide
  deriving DecidableEq, Repr

/-- Why an instruction has no meaning. -/
inductive Refusal where
  /-- Raised by `exec` for an instruction the model gives no meaning; there is none. Safe. -/
  | notModelled (mnemonic : String)
  deriving DecidableEq, Repr

/-- The machine. -/
structure State where
  /-- H[0..3], the digest state (R21). -/
  h : Quad
  /-- HS[0..7][0..3], the stream bank (R24). -/
  hs : Bank
  /-- SRC (R39). -/
  src : DWord
  /-- LEN (R40). -/
  len : DWord
  /-- NBLK (R41). -/
  nblk : DWord
  /-- STATUS (R34). -/
  status : Status
  /-- OUT[0..15] (R42). -/
  out : List Byte
  /-- HEX[0..31] (R43). -/
  hex : List Byte
  /-- MEM, the host's message memory (R46), in canonical form (`Memory.wf`). -/
  mem : List Host.Cell
  /-- MEM_SIZE (R10, R49); no step changes it. -/
  memSize : Nat
  /-- The host's actions that are still to come, the next one first (R102). -/
  pending : List HostAction
  /-- How many actions of the host's list have been taken: the index of R33 and R102. -/
  index : Nat
  /-- The values returned by RD actions so far, oldest first (R102). -/
  outputs : List DWord
  deriving DecidableEq, Repr

/-- The outcome of one action or command. -/
abbrev Result := Host.Outcome State Fault Refusal

/-- The status after reset and INIT: FRESH = 1, all else 0 (R48). -/
def Status.atReset : Status := { fresh := true, done := false, err := false, errcode := 0 }

/-- Right after reset (R48, R300). MEM and MEM_SIZE are the model's choice (log entries 1 and 2); the host's list is
empty (log entry 3). -/
def State.reset : State where
  h := iv
  hs := ivBank
  src := 0
  len := 0
  nblk := 0
  status := Status.atReset
  out := List.replicate 16 0x00
  hex := List.replicate 32 0x00
  mem := []
  memSize := Config.memSizeAtReset
  pending := []
  index := 0
  outputs := []

/-- H <- q and STATUS <- st, in one update: whatever writes H writes FRESH too (R35). -/
def State.setHStatus (s : State) (q : Quad) (st : Status) : State := { s with h := q, status := st }
/-- HS <- b. -/
def State.setHs (s : State) (b : Bank) : State := { s with hs := b }
/-- SRC <- v. -/
def State.setSrc (s : State) (v : DWord) : State := { s with src := v }
/-- LEN <- v. -/
def State.setLen (s : State) (v : DWord) : State := { s with len := v }
/-- NBLK <- v. -/
def State.setNblk (s : State) (v : DWord) : State := { s with nblk := v }
/-- STATUS <- st. -/
def State.setStatus (s : State) (st : Status) : State := { s with status := st }
/-- OUT <- bytes. -/
def State.setOut (s : State) (bytes : List Byte) : State := { s with out := bytes }
/-- HEX <- bytes. -/
def State.setHex (s : State) (bytes : List Byte) : State := { s with hex := bytes }
/-- H, HS, STATUS, OUT and HEX at the values of a fresh instance (R48, R241). -/
def State.setFresh (s : State) : State :=
  { s with
    h := iv, hs := ivBank, status := Status.atReset, out := List.replicate 16 0x00, hex := List.replicate 32 0x00 }
/-- The same, and SRC, LEN and NBLK at 0 (R48, R300). -/
def State.setReset (s : State) : State :=
  { s with
    h := iv, hs := ivBank, status := Status.atReset, out := List.replicate 16 0x00, hex := List.replicate 32 0x00,
    src := 0, len := 0, nblk := 0 }
/-- MEM <- m. -/
def State.setMem (s : State) (m : List Host.Cell) : State := { s with mem := m }
/-- The host's next action is taken: `rest` remains and the index advances by 1 (R33, R102). -/
def State.popAction (s : State) (rest : List HostAction) : State :=
  { s with pending := rest, index := s.index + 1 }
/-- The value of an RD action is added to the outputs (R102). -/
def State.pushOutput (s : State) (v : DWord) : State := { s with outputs := s.outputs ++ [v] }
/-- Another list of host actions is to come. -/
def State.setPending (s : State) (actions : List HostAction) : State := { s with pending := actions }

end Sys2Proof.Machine
end

