-- ==== Sys2Proof/Machine/Flags.lean ====
section
/-! DEFINITION. Every computation on STATUS: its 32-bit value and the four ways it changes (R34 to R37, R272). -/

namespace Sys2Proof.Machine

/-- The 32-bit value of STATUS: bit 0 FRESH, bit 1 DONE, bit 2 ERR, bit 3 zero, bits [7:4] ERRCODE, the rest zero
(R34). -/
def Status.toWord (st : Status) : Word :=
  (0#24 ++ st.errcode ++ 0#1 ++ BitVec.ofBool st.err ++ BitVec.ofBool st.done ++ BitVec.ofBool st.fresh :
    BitVec (24 + 4 + 1 + 1 + 1 + 1))

/-- FRESH <- 0 (R35). -/
def Status.clearFresh (st : Status) : Status := { st with fresh := false }

/-- A DIGEST has completed: FRESH <- 0, DONE <- 1 (R35, R36). -/
def Status.digestDone (st : Status) : Status := { st with fresh := false, done := true }

/-- ERR <- 1, ERRCODE <- the cause's code; FRESH and DONE keep their values (R272). -/
def Status.raised (st : Status) (e : Cause) : Status := { st with err := true, errcode := e.code }

/-- H <- q by a transform or the host: FRESH <- 0 (R35). -/
def writeH (q : Quad) (s : State) : State := s.setHStatus q s.status.clearFresh

/-- H <- q by a DIGEST: FRESH <- 0, DONE <- 1 (R35, R36). -/
def finishDigest (q : Quad) (s : State) : State := s.setHStatus q s.status.digestDone

end Sys2Proof.Machine
end

