-- ==== Sys2Proof/Machine/Primitives.lean ====
section
/-! DEFINITION. The arithmetic of unit U0 (R121, R122, R123) and the byte order used everywhere (R14, R63, R64, R234). -/

namespace Sys2Proof.Machine

/-- The only addition on data words: modulo 2^32, no flag (R121). -/
def add32 (x y : Word) : Word := x + y

/-- The 32-bit circular left shift by n, 0 <= n <= 31 (R122). -/
def rotl32 (x : Word) (n : Nat) : Word := (x <<< n) ||| (x >>> (32 - n))

/-- The nonlinear function of quartile q (R123). The quartile of a round is below 4. -/
def ff (q : Nat) (b c d : Word) : Word :=
  match q with
  | 0 => (b &&& c) ||| (~~~b &&& d)
  | 1 => (b &&& d) ||| (c &&& ~~~d)
  | 2 => b ^^^ c ^^^ d
  | _ => c ^^^ (b ||| ~~~d)

/-- A byte array read as a little-endian natural number: byte j counts 2^(8*j) (R14). -/
def leNat : List Byte → Nat
  | [] => 0
  | b :: bs => b.toNat + 256 * leNat bs

/-- The n low bytes of a value, least significant first (R64, R234). -/
def leBytes {w : Nat} (n : Nat) (v : BitVec w) : List Byte :=
  (List.range n).map fun j => v.extractLsb' (8 * j) 8

/-- Word j of a byte array cut into 32-bit little-endian words (R42, R63, R160). -/
def wordAt (bytes : List Byte) (j : Nat) : Word :=
  BitVec.ofNat 32 (leNat ((bytes.drop (4 * j)).take 4))

end Sys2Proof.Machine
end

