-- ==== Sys2Proof/Machine/Ops.lean ====
section
/-! DEFINITION. The shared operations: message memory (R14, R46), the range check (R62), raising an error (R272), and
host access to the registers other than CMD (R44). There is no return from an error but INIT and reset (R280). -/

namespace Sys2Proof.Machine

/-! ### Message memory -/

/-- The byte at address a: the listed one, else what an unlisted address reads as. -/
def Memory.read : List Host.Cell → Nat → Byte
  | [], _ => Config.unwrittenByte
  | (b, v) :: m, a => if a = b then v else Memory.read m a

/-- One cell in front of a memory, left out where its byte is what an unlisted address reads as. -/
def Memory.cons (a : Nat) (v : Byte) (m : List Host.Cell) : List Host.Cell :=
  if v = Config.unwrittenByte then m else (a, v) :: m

/-- The memory with the byte at address a replaced. It keeps the canonical form. -/
def Memory.write : List Host.Cell → Nat → Byte → List Host.Cell
  | [], a, v => Memory.cons a v []
  | (b, x) :: m, a, v =>
    if a < b then Memory.cons a v ((b, x) :: m)
    else if a = b then Memory.cons a v m
    else (b, x) :: Memory.write m a v

/-- Every listed address is at least `low`, they strictly rise, and no listed byte is what an unlisted address reads as. -/
def Memory.wfFrom : Nat → List Host.Cell → Bool
  | _, [] => true
  | low, (a, v) :: m => decide (low ≤ a) && decide (v ≠ Config.unwrittenByte) && Memory.wfFrom (a + 1) m

/-- The canonical form of a memory. -/
def Memory.wf (m : List Host.Cell) : Bool := Memory.wfFrom 0 m

/-- Every listed address lies inside MEM. -/
def Memory.within (memSize : Nat) (m : List Host.Cell) : Bool := m.all fun c => decide (c.1 < memSize)

/-- MemRead(addr, n): the n bytes at addr .. addr+n-1 (R14). Every command checks the range first (R62). -/
def memRead (m : List Host.Cell) : Nat → Nat → List Byte
  | _, 0 => []
  | addr, n + 1 => Memory.read m addr :: memRead m (addr + 1) n

/-- MemReadLE(addr, n) (R14). -/
def memReadLE (m : List Host.Cell) (addr n : Nat) : Nat := leNat (memRead m addr n)

/-- MemWrite of a byte list from addr up: a host action only (R14, R99). -/
def memWrite (m : List Host.Cell) : Nat → List Byte → List Host.Cell
  | _, [] => m
  | addr, b :: bs => memWrite (Memory.write m addr b) (addr + 1) bs

/-! ### Errors -/

/-- `raise E`: STATUS.ERR and STATUS.ERRCODE are written and nothing else changes (R272). -/
def raise (e : Cause) (s : State) : State := s.setStatus (s.status.raised e)

/-- The range check: n bytes from SRC must lie inside MEM, on unbounded naturals; else E_RESOURCE (R62, R274). -/
def withRange (n : Nat) (s : State) (effect : State → State) : State :=
  if s.src.toNat + n ≤ s.memSize then effect s else raise .resource s

/-- The state check of a DIGEST: FRESH must be 1; else E_STATE (R35, R275). -/
def withFresh (s : State) (effect : State → State) : State :=
  if s.status.fresh then effect s else raise .state s

/-! ### Registers -/

/-- The fields that INIT writes, at their values for a fresh instance: H, HS, STATUS, OUT, HEX (R48, R241). -/
def freshInstance (s : State) : State := s.setFresh

/-- Reset of the engine: a fresh instance, and SRC, LEN and NBLK at 0 (R48, R300). MEM and MEM_SIZE keep their values
(U5, log entry 8), and so does the host's side. -/
def resetEngine (s : State) : State := s.setReset

/-- The value a host read returns (R34, R38 to R44); 32-bit registers are zero-extended (log entry 10). -/
def readReg (s : State) : Reg → DWord
  | .cmd => 0
  | .status => s.status.toWord.setWidth 64
  | .src => s.src
  | .len => s.len
  | .nblk => s.nblk
  | .h k => (s.h.get k).setWidth 64
  | .hs n k => ((s.hs.get n).get k).setWidth 64
  | .out n => (wordAt s.out n.val).setWidth 64
  | .hex n => (wordAt s.hex n.val).setWidth 64
  | .unassigned => 0

/-- What a host write stores (R44): a write to H clears FRESH (R35), STATUS, OUT, HEX and unassigned numbers ignore it,
and CMD stores nothing (R38). -/
def storeReg (s : State) (v : DWord) : Reg → State
  | .cmd => s
  | .status => s
  | .src => s.setSrc v
  | .len => s.setLen v
  | .nblk => s.setNblk v
  | .h k => writeH (s.h.set k (v.setWidth 32)) s
  | .hs n k => s.setHs (s.hs.set n ((s.hs.get n).set k (v.setWidth 32)))
  | .out _ => s
  | .hex _ => s
  | .unassigned => s

end Sys2Proof.Machine
end

