-- ==== Sys2Proof/Machine/Operands.lean ====
section
/-! DEFINITION. The operands of the commands: SRC, LEN and NBLK, whole and unsigned, and the bytes of MEM they name
(R93). Every byte is read from the MEM in which the command started (R70). -/

namespace Sys2Proof.Machine

/-- SRC as a byte address. -/
def srcAddr (s : State) : Nat := s.src.toNat

/-- LEN as a byte count. -/
def lenBytes (s : State) : Nat := s.len.toNat

/-- NBLK as a block count. -/
def blockCount (s : State) : Nat := s.nblk.toNat

/-- The 64-byte block at byte address p. -/
def blockAt (m : List Host.Cell) (p : Nat) : List Byte := memRead m p Config.blockBytes

/-- The message of a DIGEST: MEM[SRC .. SRC+LEN-1] (R81, R242). -/
def message (s : State) : List Byte := memRead s.mem (srcAddr s) (lenBytes s)

/-- Blocks 0 .. n-1 from byte address p, chained in this order through the compression `xf` from the state h (R166,
R238). -/
def chainBlocks (xf : Quad → List Byte → Quad) (m : List Host.Cell) (p n : Nat) (h : Quad) : Quad :=
  (List.range n).foldl (fun h j => xf h (blockAt m (p + 64 * j))) h

end Sys2Proof.Machine
end

