-- ==== Sys2Proof/Machine/Scalar.lean ====
section
/-! DEFINITION. Unit U1, the scalar compression engine (R160 to R164). -/

namespace Sys2Proof.Machine

/-- The sixteen little-endian words of a block (R160). -/
def words (blk : List Byte) : List Word := (List.range 16).map (wordAt blk)

/-- One round. Every right-hand side uses the state before the round (R161, R167). -/
def round (i : Nat) (x : List Word) (h : Quad) : Quad :=
  let f := ff (quartile i) h.b h.c h.d
  let sum := add32 (add32 (add32 h.a f) (kConst i)) (x.getD (gIndex i) 0)
  { a := h.d, b := add32 h.b (rotl32 sum (sAmount i)), c := h.b, d := h.c }

/-- The 64 rounds in index order (R162). -/
def rounds64 (x : List Word) (h : Quad) : Quad :=
  (List.range Config.rounds).foldl (fun h i => round i x h) h

/-- The add-back, word by word (R163). -/
def addBack (h r : Quad) : Quad :=
  { a := add32 h.a r.a, b := add32 h.b r.b, c := add32 h.c r.c, d := add32 h.d r.d }

/-- The compression of one block into the incoming state (R163). -/
def compress (h : Quad) (blk : List Byte) : Quad := addBack h (rounds64 (words blk) h)

end Sys2Proof.Machine
end

