-- ==== Sys2Proof/Machine/Driver.lean ====
section
/-! DEFINITION. Unit U4: the pure functions of padding and rendering (R231 to R237) and the padding procedure as the
engine performs it (R238 to R240). -/

namespace Sys2Proof.Machine

/-- A 64-bit length as eight bytes, least significant first (R64, R231). -/
def le64 (n : Nat) : List Byte := leBytes 8 (BitVec.ofNat 64 n)

/-- The number of zero bytes of the padding of a message of L bytes (R231). -/
def padZeros (len : Nat) : Nat := ((55 - (len : Int)) % 64).toNat

/-- The padded message (R231). -/
def pad (msg : List Byte) : List Byte :=
  msg ++ [0x80] ++ List.replicate (padZeros msg.length) 0x00 ++ le64 (8 * msg.length % 2 ^ 64)

/-- The padded message cut into 64-byte frames (R232). -/
def frames (msg : List Byte) : List (List Byte) :=
  (List.range ((msg.length + 8) / 64 + 1)).map fun t => ((pad msg).drop (64 * t)).take 64

/-- Every frame chained through the compression function from IV (R233). -/
def md5state (msg : List Byte) : Quad := (frames msg).foldl compress iv

/-- The four bytes of a word, least significant first (R234). -/
def leBytes32 (w : Word) : List Byte := leBytes 4 w

/-- The sixteen digest bytes of a state (R235). -/
def digestBytes (h : Quad) : List Byte := leBytes32 h.a ++ leBytes32 h.b ++ leBytes32 h.c ++ leBytes32 h.d

/-- The MD5 digest of a message (R235). -/
def md5 (msg : List Byte) : List Byte := digestBytes (md5state msg)

/-- The character code of the lowercase hexadecimal digit of n (R236). -/
def hexchar (n : BitVec 4) : Byte :=
  if n ≤ 9 then 0x30 + n.setWidth 8 else 0x61 + (n.setWidth 8 - 10)

/-- Two characters a byte, most significant nibble first (R66, R237). -/
def hexString (bytes : List Byte) : List Byte :=
  bytes.flatMap fun b => [hexchar (b.extractLsb' 4 4), hexchar (b.extractLsb' 0 4)]

/-- The procedure of R238 from state h with compression `xf`: the full blocks from MEM, then the one or two frames that
BUF is filled with. Where fewer than 8 bytes remain after the 0x80, the first frame is zero-filled to its end and the
length goes into a fresh zero frame (R239, C1). `cnt` is the byte counter CNT (R32). -/
def digestProcedure (xf : Quad → List Byte → Quad) (m : List Host.Cell) (p len : Nat) (h : Quad) : Quad :=
  let nfull := len / 64
  let r := len % 64
  let h := chainBlocks xf m p nfull h
  let tail := memRead m (p + 64 * nfull) r ++ [0x80]
  let cnt := 64 * nfull + r
  let suffix := le64 (8 * cnt % 2 ^ 64)
  if 63 - r < 8 then
    xf (xf h (tail ++ List.replicate (63 - r) 0x00)) (List.replicate 56 0x00 ++ suffix)
  else
    xf h (tail ++ List.replicate (55 - r) 0x00 ++ suffix)

end Sys2Proof.Machine
end

