-- ==== Sys2Proof/Machine/Vector.lean ====
section
/-! DEFINITION. The vector registers and micro-operations of units U2 and U3 (R26 to R29, R132 to R139). A register of n
lanes is a bit vector of 32*n bits, lane j its bits [32j+31 : 32j]. -/

namespace Sys2Proof.Machine

/-- A vector register of n lanes: `VReg 4` has 128 bits, `VReg 8` has 256 (R132). -/
abbrev VReg (n : Nat) := BitVec (32 * n)

/-- V.lane[j] (R132). -/
def lane {n : Nat} (v : VReg n) (j : Nat) : Word := v.extractLsb' (32 * j) 32

/-- The w-bit value whose lanes 0 .. k-1 are f 0 .. f (k-1), zero above. -/
def lanesBelow (w : Nat) (f : Nat → Word) : Nat → BitVec w
  | 0 => 0
  | k + 1 => lanesBelow w f k ||| ((f k).setWidth w <<< (32 * k))

/-- The register whose lane j is f j. -/
def ofLanes (n : Nat) (f : Nat → Word) : VReg n := lanesBelow (32 * n) f n

/-- VADD (R133). -/
def vadd {n : Nat} (x y : VReg n) : VReg n := ofLanes n fun j => add32 (lane x j) (lane y j)

/-- VAND (R134). -/
def vand {n : Nat} (x y : VReg n) : VReg n := ofLanes n fun j => lane x j &&& lane y j

/-- VOR (R134). -/
def vor {n : Nat} (x y : VReg n) : VReg n := ofLanes n fun j => lane x j ||| lane y j

/-- VXOR (R134). -/
def vxor {n : Nat} (x y : VReg n) : VReg n := ofLanes n fun j => lane x j ^^^ lane y j

/-- VNOT (R134). -/
def vnot {n : Nat} (x : VReg n) : VReg n := ofLanes n fun j => ~~~(lane x j)

/-- VANDN: the complement of the first operand AND the second (R134). -/
def vandn {n : Nat} (x y : VReg n) : VReg n := ofLanes n fun j => ~~~(lane x j) &&& lane y j

/-- VFF, the nonlinear function of quartile q in every lane, built from the bitwise operations (R123, R134). -/
def vff {n : Nat} (q : Nat) (b c d : VReg n) : VReg n :=
  match q with
  | 0 => vor (vand b c) (vand (vnot b) d)
  | 1 => vor (vand b d) (vand c (vnot d))
  | 2 => vxor (vxor b c) d
  | _ => vxor c (vor b (vnot d))

/-- VROTL: one amount for all lanes (R135). -/
def vrotl {n : Nat} (x : VReg n) (amount : Nat) : VReg n := ofLanes n fun j => rotl32 (lane x j) amount

/-- VBCAST (R136). -/
def vbcast (n : Nat) (w : Word) : VReg n := ofLanes n fun _ => w

/-- VGATHER(p, i): lane s reads word g(i) of the block at p + 64*s (R80, R137). -/
def vgather (m : List Host.Cell) (p i : Nat) : VReg 8 :=
  ofLanes 8 fun s => BitVec.ofNat 32 (memReadLE m (p + 64 * s + 4 * gIndex i) 4)

/-- VPACK4: lane k is word k of the state (R138). -/
def vpack4 (h : Quad) : VReg 4 := ofLanes 4 fun k => h.get (Fin.ofNat 4 k)

/-- VUNPACK4, the inverse of VPACK4 (R138). -/
def vunpack4 (v : VReg 4) : Quad := ⟨lane v 0, lane v 1, lane v 2, lane v 3⟩

/-- VPERM(VS, newb): lanes (a, b, c, d) become (d, newb, b, c) (R139). -/
def vperm (v : VReg 4) (newb : Word) : VReg 4 := vpack4 ⟨lane v 3, newb, lane v 1, lane v 2⟩

/-- The four registers VA, VB, VC, VD of unit U3 (R28). -/
structure Planes where
  va : VReg 8
  vb : VReg 8
  vc : VReg 8
  vd : VReg 8
  deriving DecidableEq, Repr

/-- VPACK8: lane s of VA, VB, VC, VD is word a, b, c, d of stream s (R138). -/
def vpack8 (hs : Bank) : Planes where
  va := ofLanes 8 fun s => (hs.get (Fin.ofNat 8 s)).a
  vb := ofLanes 8 fun s => (hs.get (Fin.ofNat 8 s)).b
  vc := ofLanes 8 fun s => (hs.get (Fin.ofNat 8 s)).c
  vd := ofLanes 8 fun s => (hs.get (Fin.ofNat 8 s)).d

/-- The four-word state in lane s of the planes. -/
def Planes.stream (v : Planes) (s : Nat) : Quad := ⟨lane v.va s, lane v.vb s, lane v.vc s, lane v.vd s⟩

/-- VUNPACK8, the inverse of VPACK8 (R138). -/
def vunpack8 (v : Planes) : Bank := Bank.ofFn fun s => v.stream s.val

end Sys2Proof.Machine
end

