-- ==== Sys2Proof/Machine/SingleStream.lean ====
section
/-! DEFINITION. Unit U2, the single-stream vectorized transform: one stream's four words in one 128-bit register, the
rounds still serial (R180 to R183, R186). -/

namespace Sys2Proof.Machine

/-- VK4 loaded with K(4q) .. K(4q+3) (R27). -/
def vk4 (q : Nat) : VReg 4 := ofLanes 4 fun j => kConst (4 * q + j)

/-- VX4 loaded with X[4q] .. X[4q+3] (R27). -/
def vx4 (x : List Word) (q : Nat) : VReg 4 := ofLanes 4 fun j => x.getD (4 * q + j) 0

/-- One round on VS, constants and message words taken from the wide loads (R182). -/
def roundV (i : Nat) (x : List Word) (vs : VReg 4) : VReg 4 :=
  let f := ff (quartile i) (lane vs 1) (lane vs 2) (lane vs 3)
  let k := lane (vk4 (i / 4)) (i % 4)
  let w := lane (vx4 x (gIndex i / 4)) (gIndex i % 4)
  let sum := add32 (add32 (add32 (lane vs 0) f) k) w
  let newb := add32 (lane vs 1) (rotl32 sum (sAmount i))
  vperm vs newb

/-- What U2 computes: pack, 64 rounds in order, add back on four lanes, unpack (R181, R182). -/
def compressV (h : Quad) (blk : List Byte) : Quad :=
  let vs := (List.range Config.rounds).foldl (fun vs i => roundV i (words blk) vs) (vpack4 h)
  vunpack4 (vadd (vpack4 h) vs)

end Sys2Proof.Machine
end

