-- ==== Sys2Proof/Machine/Digest.lean ====
section
/-! DEFINITION. The driver commands INIT, DIGEST.p, GETHASH and GETHEX (R241 to R244, R247, R248). -/

namespace Sys2Proof.Machine

/-- INIT (R241): SRC, LEN, NBLK and MEM keep their values. -/
def execInit (s : State) : Result := .next (freshInstance s)

/-- The state check, the range check, then the procedure of R238 with `xf` (R242). -/
def digestH (xf : Quad → List Byte → Quad) (s : State) : State :=
  withFresh s fun s => withRange (lenBytes s) s fun s =>
    finishDigest (digestProcedure xf s.mem (srcAddr s) (lenBytes s) s.h) s

/-- DIGEST.S (R242). -/
def execDigestS (s : State) : Result := .next (digestH compress s)

/-- DIGEST.V (R243). -/
def execDigestV (s : State) : Result := .next (digestH compressV s)

/-- DIGEST.B (R244): one message is one stream, compressed frame after frame; HS is not touched. Which unit does it is
not observable (R245, log entry 11). -/
def execDigestB (s : State) : Result := .next (digestH compress s)

/-- GETHASH (R247). -/
def execGetHash (s : State) : Result := .next (s.setOut (digestBytes s.h))

/-- GETHEX (R248). -/
def execGetHex (s : State) : Result := .next (s.setHex (hexString (digestBytes s.h)))

end Sys2Proof.Machine
end

