-- ==== Sys2Proof/Machine/Batched.lean ====
section
/-! DEFINITION. Unit U3, the batched 8-way transform (R200 to R211). -/

namespace Sys2Proof.Machine

/-- One round of a batch whose first block is at byte address p, all eight lanes at once (R203). -/
def batchRound (m : List Host.Cell) (p i : Nat) (v : Planes) : Planes :=
  let vf := vff (quartile i) v.vb v.vc v.vd
  let vm := vgather m p i
  let vkb := vbcast 8 (kConst i)
  let vt := vadd (vadd (vadd v.va vf) vkb) vm
  let vt := vrotl vt (sAmount i)
  let vt := vadd v.vb vt
  { va := v.vd, vb := vt, vc := v.vb, vd := v.vc }

/-- The 64 rounds of a batch, in lockstep (R204). -/
def batchRounds (m : List Host.Cell) (p : Nat) (v : Planes) : Planes :=
  (List.range Config.rounds).foldl (fun v i => batchRound m p i v) v

/-- The add-back of a batch, lane by lane (R205). -/
def batchAddBack (v w : Planes) : Planes :=
  { va := vadd v.va w.va, vb := vadd v.vb w.vb, vc := vadd v.vc w.vc, vd := vadd v.vd w.vd }

/-- One batch: pack, 64 rounds, add back, unpack (R202 to R206). Block s is at p + 64*s. -/
def batch8 (m : List Host.Cell) (hs : Bank) (p : Nat) : Bank :=
  vunpack8 (batchAddBack (vpack8 hs) (batchRounds m p (vpack8 hs)))

/-- The nb full batches from byte address p (R209). -/
def runBatches (m : List Host.Cell) (p nb : Nat) (hs : Bank) : Bank :=
  (List.range nb).foldl (fun hs t => batch8 m hs (p + Config.batchBytes * t)) hs

/-- Block j, at p + 64*j, into stream j mod 8 on the scalar engine (R209, R210). -/
def scalarBlock (m : List Host.Cell) (p j : Nat) (hs : Bank) : Bank :=
  let s := Fin.ofNat 8 j
  hs.set s (compress (hs.get s) (blockAt m (p + 64 * j)))

/-- The r remainder blocks from block number `first` on, one at a time, all of them (R209, R211, R307). -/
def runRemainder (m : List Host.Cell) (p first r : Nat) (hs : Bank) : Bank :=
  (List.range r).foldl (fun hs k => scalarBlock m p (first + k) hs) hs

/-- n blocks through the batched path with the scalar remainder (R209). -/
def runBatched (m : List Host.Cell) (p n : Nat) (hs : Bank) : Bank :=
  runRemainder m p (8 * (n / 8)) (n % 8) (runBatches m p (n / 8) hs)

end Sys2Proof.Machine
end

