-- ==== Sys2Proof/Machine/Transforms.lean ====
section
/-! DEFINITION. The transform commands XFRM.p and XFRMN.p (R165, R166, R184, R185, R208, R209): the range check, then the
effect. -/

namespace Sys2Proof.Machine

/-- One block at SRC compressed into H by `xf`, FRESH cleared. -/
def transformH (xf : Quad → List Byte → Quad) (s : State) : State :=
  withRange Config.blockBytes s fun s => writeH (xf s.h (blockAt s.mem (srcAddr s))) s

/-- NBLK blocks from SRC chained into H by `xf`, FRESH cleared, also for NBLK = 0. -/
def transformNH (xf : Quad → List Byte → Quad) (s : State) : State :=
  withRange (64 * blockCount s) s fun s =>
    writeH (chainBlocks xf s.mem (srcAddr s) (blockCount s) s.h) s

/-- XFRM.S (R165). -/
def execXfrmS (s : State) : Result := .next (transformH compress s)

/-- XFRM.V (R184). -/
def execXfrmV (s : State) : Result := .next (transformH compressV s)

/-- XFRM.B (R208): no flag changes. -/
def execXfrmB (s : State) : Result :=
  .next (withRange Config.batchBytes s fun s => s.setHs (batch8 s.mem s.hs (srcAddr s)))

/-- XFRMN.S (R166). -/
def execXfrmnS (s : State) : Result := .next (transformNH compress s)

/-- XFRMN.V (R185). -/
def execXfrmnV (s : State) : Result := .next (transformNH compressV s)

/-- XFRMN.B (R209): no flag changes. -/
def execXfrmnB (s : State) : Result :=
  .next (withRange (64 * blockCount s) s fun s =>
    s.setHs (runBatched s.mem (srcAddr s) (blockCount s) s.hs))

end Sys2Proof.Machine
end

