-- ==== Sys2Proof/Machine/Dispatch.lean ====
section
/-! DEFINITION. The rule of the matched row (R92, step 3): one arm a command. The ERR gate and the decoding come before it,
in the write to CMD (Machine/HostInterface.lean). -/

namespace Sys2Proof.Machine

def exec (i : Instr) (s : State) : Host.Outcome State Fault Refusal :=
  match i with
  | .init => Sys2Proof.Machine.execInit s
  | .xfrmS => Sys2Proof.Machine.execXfrmS s
  | .xfrmV => Sys2Proof.Machine.execXfrmV s
  | .xfrmB => Sys2Proof.Machine.execXfrmB s
  | .xfrmnS => Sys2Proof.Machine.execXfrmnS s
  | .xfrmnV => Sys2Proof.Machine.execXfrmnV s
  | .xfrmnB => Sys2Proof.Machine.execXfrmnB s
  | .digestS => Sys2Proof.Machine.execDigestS s
  | .digestV => Sys2Proof.Machine.execDigestV s
  | .digestB => Sys2Proof.Machine.execDigestB s
  | .getHash => Sys2Proof.Machine.execGetHash s
  | .getHex => Sys2Proof.Machine.execGetHex s

end Sys2Proof.Machine
end

