-- ==== Sys2Proof/Machine/HostInterface.lean ====
section
/-! DEFINITION. What the outside world does to the machine: the write to CMD (R92, R273, R277), the other register
accesses (R44), memory writes (R99), reset (R300), the pseudo-instructions of R100, and taking the next action of the
host's list (R102). -/

namespace Sys2Proof.Machine

/-- A host write of w to CMD (R92): with ERR = 1 only the INIT word does anything (R273); an undecodable word raises
E_ILLEGAL (R276); else the command executes. The write itself stores nothing (R38). -/
def writeCmd (w : Word) (s : State) : Result :=
  if s.status.err = true ∧ w ≠ encode .init then .next s
  else
    match decode w with
    | .error _ => .next (raise .illegal s)
    | .ok i => exec i s

/-- A host write to the register with this number (R44). A value too wide for the register stops the run (log entry 6). -/
def writeReg (n : Nat) (v : DWord) (s : State) : Result :=
  if HostAction.valueFits n v then
    match Reg.ofNumber n with
    | .cmd => writeCmd (v.setWidth 32) s
    | r => .next (storeReg s v r)
  else .fault .hostValueTooWide

/-- One action of the host or of the platform. A memory write outside MEM stops the run (R99, log entry 7). -/
def performAction (a : HostAction) (s : State) : Result :=
  match a with
  | .wr n v => writeReg n v s
  | .rd n => .next (s.pushOutput (readReg s (Reg.ofNumber n)))
  | .memw addr bytes =>
    if HostAction.rangeFits s.memSize addr bytes.length then .next (s.setMem (memWrite s.mem addr bytes))
    else .fault .hostMemWriteOutOfRange
  | .reset => .next (resetEngine s)

/-- The next action of the host's list is taken and performed; with none left the engine is idle and its state is held
(R287, R302, log entry 5). -/
def takeAction (s : State) : Result :=
  match s.pending with
  | [] => .next s
  | a :: rest => performAction a (s.popAction rest)

/-- A finite list of actions performed in order (R102). -/
def runActions : List HostAction → State → Result
  | [], s => .next s
  | a :: rest, s =>
    match performAction a s with
    | .next t => runActions rest t
    | .fault r => .fault r
    | .refused r => .refused r

/-! ### The assembler's lines (R99, R100) -/

/-- A command line: `WR CMD, <command word>`. -/
def command (i : Instr) : HostAction := .wr (Reg.number .cmd) ((encode i).setWidth 64)

/-- `XFRM.p src`, for the command i of path p. -/
def asmXfrm (i : Instr) (src : DWord) : List HostAction := [.wr (Reg.number .src) src, command i]

/-- `XFRMN.p src, n`. -/
def asmXfrmn (i : Instr) (src n : DWord) : List HostAction :=
  [.wr (Reg.number .src) src, .wr (Reg.number .nblk) n, command i]

/-- `DIGEST.p src, len`. -/
def asmDigest (i : Instr) (src len : DWord) : List HostAction :=
  [.wr (Reg.number .src) src, .wr (Reg.number .len) len, command i]

/-- `LDH w0, w1, w2, w3`. -/
def asmLdh (q : Quad) : List HostAction :=
  [.wr (Reg.number (.h 0)) (q.a.setWidth 64), .wr (Reg.number (.h 1)) (q.b.setWidth 64),
    .wr (Reg.number (.h 2)) (q.c.setWidth 64), .wr (Reg.number (.h 3)) (q.d.setWidth 64)]

/-- `LDHS s, w0, w1, w2, w3`. -/
def asmLdhs (s : Fin 8) (q : Quad) : List HostAction :=
  [.wr (Reg.number (.hs s 0)) (q.a.setWidth 64), .wr (Reg.number (.hs s 1)) (q.b.setWidth 64),
    .wr (Reg.number (.hs s 2)) (q.c.setWidth 64), .wr (Reg.number (.hs s 3)) (q.d.setWidth 64)]

/-- `MD5 src, len`: construct, digest once, read the bytes and the string. -/
def asmMd5 (src len : DWord) : List HostAction :=
  command .init :: asmDigest .digestS src len ++ [command .getHash, command .getHex]

/-- The state with a write of the word w to CMD put in front of the host's list. -/
def placeCommand (w : Word) (s : State) : State :=
  s.setPending (.wr (Reg.number .cmd) (w.setWidth 64) :: s.pending)

end Sys2Proof.Machine
end

