-- ==== Sys2Proof/Machine/Step.lean ====
section
/-! DEFINITION. One step of the machine: the next action of the host's list (R16, R102). The engine fetches no
instruction (R33): a command comes from the host's write to CMD, so `withFetchWord` puts that write in front of the list
(log entry 3). -/

namespace Sys2Proof.Machine

/-- One step. -/
def step (s : State) : Host.Outcome State Fault Refusal := takeAction s

/-- The state in which the next step is the host's write of the word w to CMD. -/
def State.withFetchWord (s : State) (nbits w : Nat) : State :=
  placeCommand (BitVec.ofNat 32 (w % 2 ^ nbits)) s

end Sys2Proof.Machine
end

