-- ==== Sys2Proof/Safety.lean ====
section
/-! DEFINITION. The terms claims use: the invariant of the machine, which commands read how many bytes, which actions
write H, and when a run has produced a digest (R313). -/

namespace Sys2Proof.Machine

/-- STATUS holds a combination that can occur (95_test_vectors.md section 9, from R35, R36, R37, R271, R275): FRESH and
DONE exclude each other, ERRCODE is 0 exactly when ERR is 0, no code above 3 is produced, and E_STATE is recorded on an
instance that is not fresh. -/
def Status.legal (st : Status) : Bool :=
  !(st.fresh && st.done) && (st.err == decide (st.errcode ≠ 0)) && decide (st.errcode ≤ 3) &&
    !(decide (st.errcode = 2) && st.fresh)

/-- The code of a character '0'..'9' or 'a'..'f' (R236). -/
def isHexCode (b : Byte) : Bool :=
  (decide (0x30 ≤ b) && decide (b ≤ 0x39)) || (decide (0x61 ≤ b) && decide (b ≤ 0x66))

/-- HEX holds 32 bytes: all 0x00 (never written) or all hexadecimal characters (R43). -/
def hexLegal (hex : List Byte) : Bool :=
  decide (hex.length = 32) && (hex.all (· == 0x00) || hex.all isHexCode)

/-- The invariant of the machine: FRESH implies H = IV (R35), STATUS is a combination that can occur, OUT has 16 bytes,
HEX is legal, MEM is in canonical form and inside MEM_SIZE, and MEM_SIZE is at most 2^61 - 1 (R10). -/
abbrev State.Inv (s : State) : Prop :=
  (s.status.fresh = true → s.h = iv) ∧ s.status.legal = true ∧ s.out.length = 16 ∧ hexLegal s.hex = true ∧
    Memory.wf s.mem = true ∧ Memory.within s.memSize s.mem = true ∧ s.memSize ≤ Config.memSizeMax

/-- How many bytes of MEM from SRC a command reads (R62); none where it reads no memory at all. -/
def bytesRead (s : State) : Instr → Option Nat
  | .init => none
  | .xfrmS => some 64
  | .xfrmV => some 64
  | .xfrmB => some 512
  | .xfrmnS => some (64 * s.nblk.toNat)
  | .xfrmnV => some (64 * s.nblk.toNat)
  | .xfrmnB => some (64 * s.nblk.toNat)
  | .digestS => some s.len.toNat
  | .digestV => some s.len.toNat
  | .digestB => some s.len.toNat
  | .getHash => none
  | .getHex => none

/-- The bytes a command reads lie inside MEM (R62). -/
def inRange (s : State) (i : Instr) : Prop := ∀ n, bytesRead s i = some n → s.src.toNat + n ≤ s.memSize

/-- The three DIGEST commands. -/
def isDigest (i : Instr) : Bool :=
  match i with
  | .digestS => true
  | .digestV => true
  | .digestB => true
  | .init => false
  | .xfrmS => false
  | .xfrmV => false
  | .xfrmB => false
  | .xfrmnS => false
  | .xfrmnV => false
  | .xfrmnB => false
  | .getHash => false
  | .getHex => false

/-- The four transforms that write H (R22). -/
def transformsH (i : Instr) : Bool :=
  match i with
  | .xfrmS => true
  | .xfrmV => true
  | .xfrmnS => true
  | .xfrmnV => true
  | .init => false
  | .xfrmB => false
  | .xfrmnB => false
  | .digestS => false
  | .digestV => false
  | .digestB => false
  | .getHash => false
  | .getHex => false

/-- Actions that may write H: a command of R22's list, reset, and a host write to H0..H3 (R313). -/
def HostAction.mayWriteH : HostAction → Bool
  | .wr n v =>
    match Reg.ofNumber n with
    | .cmd =>
      match decode (v.setWidth 32) with
      | .ok i => i == .init || isDigest i || transformsH i
      | .error _ => false
    | .h _ => true
    | _ => false
  | .rd _ => false
  | .memw _ _ => false
  | .reset => true

/-- The run of `actions` from s0 to t has produced a digest, and `msg` is the message (R313): at the end ERR = 0 and
DONE = 1, and nothing may have written H since the successful DIGEST of `msg`. -/
def ProducedDigest (actions : List HostAction) (s0 t : State) (msg : List Byte) : Prop :=
  ∃ before after i s, actions = before ++ command i :: after ∧ isDigest i = true ∧
    runActions before s0 = .next s ∧ s.status.err = false ∧ s.status.fresh = true ∧ inRange s i ∧ msg = message s ∧
    runActions (command i :: after) s = .next t ∧ after.all (fun a => !a.mayWriteH) = true ∧
    t.status.err = false ∧ t.status.done = true

end Sys2Proof.Machine
end

