-- ==== Sys2Proof/Certificates/Slice0/Obligations.lean ====
section
/-! DEFINITION. The statements about the model, from the numbered rules of spec/ file by file. A statement that names the
whole next state of a command says what the command does and, at once, that it completes and what it leaves unchanged. -/

open Sys2Proof Sys2Proof.Machine

/-! ### Encoding (30_encoding.md) -/

/-- R95: the twelve rows, with OP, PATH and word, are what encoder and decoder say, and no two words are equal. -/
def Obligations.TheTwelveCommandWords : Prop :=
  let rows : List (Instr × BitVec 4 × BitVec 2 × Word) :=
    [(.init, 1, 0, 0x00000001), (.xfrmS, 2, 0, 0x00000002), (.xfrmV, 2, 1, 0x00000012), (.xfrmB, 2, 2, 0x00000022),
      (.xfrmnS, 3, 0, 0x00000003), (.xfrmnV, 3, 1, 0x00000013), (.xfrmnB, 3, 2, 0x00000023),
      (.digestS, 4, 0, 0x00000004), (.digestV, 4, 1, 0x00000014), (.digestB, 4, 2, 0x00000024),
      (.getHash, 5, 0, 0x00000005), (.getHex, 6, 0, 0x00000006)]
  (∀ r ∈ rows, opField r.2.2.2 = r.2.1 ∧ pathField r.2.2.2 = r.2.2.1 ∧ zeroField r.2.2.2 = 0 ∧
    encode r.1 = r.2.2.2 ∧ decode r.2.2.2 = .ok r.1) ∧
  rows.Pairwise (fun r q => r.2.2.2 ≠ q.2.2.2) ∧ ∀ i : Instr, ∃ r ∈ rows, r.1 = i

/-- Decoding and encoding agree on every command and every 32-bit word: the decoder answers a command exactly for the
command's own word (30_encoding.md section 3). -/
def Obligations.DecodeAnswersExactlyTheEncodedWord : Prop :=
  ∀ (i : Instr) (w : Word), i.wf = true → (decode w = .ok i ↔ w = encode i)

/-- R97, R276: every other word is refused by the decoder, and written to CMD it raises E_ILLEGAL and does nothing else,
so it is neither a no-op nor another command. -/
def Obligations.OtherWordsRaiseIllegal : Prop :=
  ∀ w : Word, (∀ i, w ≠ encode i) →
    (∃ e, decode w = .error e) ∧
    ∀ s : State, s.status.err = false →
      performAction (.wr 0 (w.setWidth 64)) s =
        .next { s with status := { s.status with err := true, errcode := 1 } }

/-! ### Steps, commands and errors (00_scope.md, 30_encoding.md, 60_exceptions.md) -/

/-- A step runs the decoded command: when the host's next action writes the word of a command to CMD, and the ERR gate
lets it pass, the step is that command's execution after the action has been taken from the list. -/
def Obligations.StepRunsTheDecodedCommand : Prop :=
  ∀ (s : State) (w : Word) (rest : List HostAction) (i : Instr),
    s.pending = .wr 0 (w.setWidth 64) :: rest → decode w = .ok i →
    (s.status.err = false ∨ w = 0x00000001) →
    step s = exec i { s with pending := rest, index := s.index + 1 }

/-- With no action left the step holds the state (the model's reading of an idle engine, log entry 5). -/
def Obligations.IdleStepHoldsTheState : Prop :=
  ∀ s : State, s.pending = [] → step s = .next s

/-- R277: exactly one outcome of a write to CMD, the first that applies: the ERR gate, E_ILLEGAL, E_STATE, E_RESOURCE, and
else the command executes and raises nothing. -/
def Obligations.CommandWriteOutcomesInPriorityOrder : Prop :=
  ∀ (w : Word) (s : State),
    (s.status.err = true → w ≠ 0x00000001 → writeCmd w s = .next s) ∧
    ((s.status.err = false ∨ w = 0x00000001) →
      ((∀ i, w ≠ encode i) →
        writeCmd w s = .next { s with status := { s.status with err := true, errcode := 1 } }) ∧
      ∀ i, w = encode i →
        (isDigest i = true → s.status.fresh = false →
          writeCmd w s = .next { s with status := { s.status with err := true, errcode := 2 } }) ∧
        ((isDigest i = true → s.status.fresh = true) → ¬ inRange s i →
          writeCmd w s = .next { s with status := { s.status with err := true, errcode := 3 } }) ∧
        ((isDigest i = true → s.status.fresh = true) → inRange s i →
          writeCmd w s = exec i s ∧ ∃ t, exec i s = .next t ∧ t.status.err = false))

/-- R273: while ERR = 1 a write to CMD of any word but INIT does nothing, register accesses work as always, the first
code is kept, OUT, HEX and DONE do not change, and INIT or reset clears the error. -/
def Obligations.ErroredEngineIsQuiescent : Prop :=
  ∀ s : State, s.status.err = true →
    (∀ w : Word, w ≠ 0x00000001 → performAction (.wr 0 (w.setWidth 64)) s = .next s) ∧
    (∀ n, performAction (.rd n) s = .next { s with outputs := s.outputs ++ [readReg s (Reg.ofNumber n)] }) ∧
    (∀ n v, Reg.ofNumber n ≠ .cmd → HostAction.valueFits n v = true →
      performAction (.wr n v) s = .next (storeReg s v (Reg.ofNumber n))) ∧
    (∀ a t, performAction a s = .next t → a ≠ command .init → a ≠ .reset →
      t.status.err = true ∧ t.status.errcode = s.status.errcode ∧ t.status.done = s.status.done ∧
      t.out = s.out ∧ t.hex = s.hex) ∧
    (∀ t, performAction (command .init) s = .next t ∨ performAction .reset s = .next t →
      t.status.err = false ∧ t.status.errcode = 0)

/-- R272, R279: a command write that raises an error changes ERR and ERRCODE and nothing else; R271: the code says the
cause. -/
def Obligations.RaisingChangesOnlyErrAndErrcode : Prop :=
  ∀ (w : Word) (s t : State), writeCmd w s = .next t → s.status.err = false → t.status.err = true →
    t = { s with status := { s.status with err := true, errcode := t.status.errcode } } ∧
    ((t.status.errcode = 1 ∧ ∀ i, w ≠ encode i) ∨
      (t.status.errcode = 2 ∧ ∃ i, w = encode i ∧ isDigest i = true ∧ s.status.fresh = false) ∨
      (t.status.errcode = 3 ∧ ∃ i n, w = encode i ∧ bytesRead s i = some n ∧ s.memSize < s.src.toNat + n))

/-- R62: the range check of the nine commands that read memory, on unbounded naturals: a failed check raises E_RESOURCE
and changes nothing else, a passed one raises nothing, and no sum wraps at 2^64. -/
def Obligations.RangeCheckOnUnboundedNaturals : Prop :=
  ∀ (i : Instr) (n : Nat) (s : State), bytesRead s i = some n → (isDigest i = true → s.status.fresh = true) →
    (s.memSize < s.src.toNat + n →
      exec i s = .next { s with status := { s.status with err := true, errcode := 3 } }) ∧
    (s.src.toNat + n ≤ s.memSize →
      ∃ t, exec i s = .next t ∧ t.status.err = s.status.err ∧ t.status.errcode = s.status.errcode) ∧
    (s.memSize ≤ 2 ^ 61 - 1 → 2 ^ 64 ≤ s.src.toNat + n →
      exec i s = .next { s with status := { s.status with err := true, errcode := 3 } })

/-- Every command answers a next state from every state: none stops the machine, and each terminates (R270, R311). -/
def Obligations.EveryCommandAnswersNext : Prop :=
  ∀ (i : Instr) (s : State), ∃ t, exec i s = .next t

/-- A command leaves the operand registers, MEM, MEM_SIZE and the host's side unchanged (R39, R40, R41, R79). -/
def Obligations.CommandsKeepOperandsAndMemory : Prop :=
  ∀ (i : Instr) (s t : State), exec i s = .next t →
    t.src = s.src ∧ t.len = s.len ∧ t.nblk = s.nblk ∧ t.memSize = s.memSize ∧
    (∀ a, Memory.read t.mem a = Memory.read s.mem a) ∧
    t.pending = s.pending ∧ t.index = s.index ∧ t.outputs = s.outputs

/-! ### Registers and flags (10_state.md) -/

/-- R34: the layout of STATUS, and a host write to it is ignored. -/
def Obligations.StatusRegisterLayout : Prop :=
  ∀ s : State,
    (s.status.toWord.getLsbD 0 = s.status.fresh ∧ s.status.toWord.getLsbD 1 = s.status.done ∧
      s.status.toWord.getLsbD 2 = s.status.err ∧ s.status.toWord.getLsbD 3 = false ∧
      s.status.toWord.extractLsb' 4 4 = s.status.errcode ∧ s.status.toWord.extractLsb' 8 24 = 0) ∧
    readReg s (Reg.ofNumber 1) = s.status.toWord.setWidth 64 ∧
    ∀ v, performAction (.wr 1 v) s = .next s

/-- The host's reads: the value of every register number of the table of R44, with no side effect but the output. That the
value of a 32-bit register stands in the low half of a 64-bit output, zeros above, is the model's choice (log entry 10). -/
def Obligations.HostReadsByNumber : Prop :=
  ∀ s : State,
    (∀ n, performAction (.rd n) s = .next { s with outputs := s.outputs ++ [readReg s (Reg.ofNumber n)] }) ∧
    readReg s (Reg.ofNumber 0) = 0 ∧ readReg s (Reg.ofNumber 1) = s.status.toWord.setWidth 64 ∧
    readReg s (Reg.ofNumber 2) = s.src ∧ readReg s (Reg.ofNumber 3) = s.len ∧ readReg s (Reg.ofNumber 4) = s.nblk ∧
    (∀ k : Fin 4, readReg s (Reg.ofNumber (8 + k.val)) = (s.h.get k).setWidth 64) ∧
    (∀ (n : Fin 8) (k : Fin 4),
      readReg s (Reg.ofNumber (16 + 4 * n.val + k.val)) = ((s.hs.get n).get k).setWidth 64) ∧
    (∀ n, n < 4 → (readReg s (Reg.ofNumber (48 + n))).toNat =
      (s.out.getD (4 * n) 0).toNat + (s.out.getD (4 * n + 1) 0).toNat * 2 ^ 8 +
        (s.out.getD (4 * n + 2) 0).toNat * 2 ^ 16 + (s.out.getD (4 * n + 3) 0).toNat * 2 ^ 24) ∧
    (∀ n, n < 8 → (readReg s (Reg.ofNumber (56 + n))).toNat =
      (s.hex.getD (4 * n) 0).toNat + (s.hex.getD (4 * n + 1) 0).toNat * 2 ^ 8 +
        (s.hex.getD (4 * n + 2) 0).toNat * 2 ^ 16 + (s.hex.getD (4 * n + 3) 0).toNat * 2 ^ 24) ∧
    (∀ n, (5 ≤ n ∧ n ≤ 7) ∨ (12 ≤ n ∧ n ≤ 15) ∨ (52 ≤ n ∧ n ≤ 55) ∨ 64 ≤ n → readReg s (Reg.ofNumber n) = 0)

/-- The host's writes by register number (the table of R44): what is stored, that a write to H clears FRESH, and which
numbers ignore a write. A value too wide for a 32-bit register stops the run (the model's choice, log entry 6). -/
def Obligations.HostWritesByNumber : Prop :=
  ∀ (s : State) (v : DWord),
    performAction (.wr 2 v) s = .next { s with src := v } ∧
    performAction (.wr 3 v) s = .next { s with len := v } ∧
    performAction (.wr 4 v) s = .next { s with nblk := v } ∧
    (∀ n, n = 1 ∨ (5 ≤ n ∧ n ≤ 7) ∨ (12 ≤ n ∧ n ≤ 15) ∨ 48 ≤ n → performAction (.wr n v) s = .next s) ∧
    (v.toNat < 2 ^ 32 →
      (∀ k : Fin 4, performAction (.wr (8 + k.val) v) s =
        .next { s with h := s.h.set k (v.setWidth 32), status := { s.status with fresh := false } }) ∧
      ∀ (n : Fin 8) (k : Fin 4), performAction (.wr (16 + 4 * n.val + k.val) v) s =
        .next { s with hs := s.hs.set n ((s.hs.get n).set k (v.setWidth 32)) }) ∧
    (2 ^ 32 ≤ v.toNat → ∀ n, n = 0 ∨ (8 ≤ n ∧ n < 12) ∨ (16 ≤ n ∧ n < 48) →
      performAction (.wr n v) s = .fault .hostValueTooWide)

/-- A host read after a host write: a read-write register gives the value written, and every other register but STATUS
reads as before (10_state.md section 7). -/
def Obligations.RegisterReadAfterWrite : Prop :=
  ∀ (s t : State) (n : Nat) (v : DWord), (2 ≤ n ∧ n ≤ 4) ∨ (8 ≤ n ∧ n < 12) ∨ (16 ≤ n ∧ n < 48) →
    performAction (.wr n v) s = .next t →
    readReg t (Reg.ofNumber n) = v ∧
    ∀ m, m ≠ n → m ≠ 1 → readReg t (Reg.ofNumber m) = readReg s (Reg.ofNumber m)

/-- R35: every change of FRESH, the E_STATE it causes, and that FRESH = 1 means H = IV. A command is successful when ERR
is 0 before and after it. -/
def Obligations.FreshFlagLifecycle : Prop :=
  (∀ (a : HostAction) (s t : State), performAction a s = .next t →
    (a = .reset ∨ a = command .init → t.status.fresh = true) ∧
    (∀ (k : Fin 4) v, a = .wr (8 + k.val) v → t.status.fresh = false) ∧
    (∀ i, a = command i → (transformsH i || isDigest i) = true → s.status.err = false → t.status.err = false →
      t.status.fresh = false) ∧
    (a ≠ .reset → a ≠ command .init → (∀ (k : Fin 4) v, a ≠ .wr (8 + k.val) v) →
      (∀ i, (transformsH i || isDigest i) = true → a = command i → s.status.err = true ∨ t.status.err = true) →
      t.status.fresh = s.status.fresh) ∧
    (s.Inv → t.status.fresh = true → t.h = iv)) ∧
  ∀ (i : Instr) (s : State), isDigest i = true → s.status.fresh = false →
    exec i s = .next { s with status := { s.status with err := true, errcode := 2 } }

/-- R36: DONE is set by a successful DIGEST, cleared by reset and INIT, changed by nothing else, and read by no command. -/
def Obligations.DoneFlagLifecycle : Prop :=
  (∀ (a : HostAction) (s t : State), performAction a s = .next t →
    (a = .reset ∨ a = command .init → t.status.done = false) ∧
    (∀ i, a = command i → isDigest i = true → s.status.err = false → t.status.err = false → t.status.done = true) ∧
    (a ≠ .reset → a ≠ command .init →
      (∀ i, isDigest i = true → a = command i → s.status.err = true ∨ t.status.err = true) →
      t.status.done = s.status.done)) ∧
  ∀ (i : Instr) (s t : State) (d : Bool), exec i s = .next t →
    ∃ d', exec i { s with status := { s.status with done := d } } =
      .next { t with status := { t.status with done := d' } }

/-- R309: OUT and HEX are snapshots: GETHASH and GETHEX write them, INIT and reset clear them, and no other action changes
them. -/
def Obligations.OutAndHexAreSnapshots : Prop :=
  ∀ (a : HostAction) (s t : State), performAction a s = .next t →
    (a = command .getHash → s.status.err = false → t.out = digestBytes s.h) ∧
    (a = command .getHex → s.status.err = false → t.hex = hexString (digestBytes s.h)) ∧
    (a = .reset ∨ a = command .init → t.out = List.replicate 16 0x00 ∧ t.hex = List.replicate 32 0x00) ∧
    (a ≠ .reset → a ≠ command .init →
      (a ≠ command .getHash → t.out = s.out) ∧ (a ≠ command .getHex → t.hex = s.hex))

/-- R48: what reset and INIT leave in every register. -/
def Obligations.ResetAndInitValues : Prop :=
  (∀ s : State, ∃ t, performAction .reset s = .next t ∧ t.h = ⟨0x67452301, 0xEFCDAB89, 0x98BADCFE, 0x10325476⟩ ∧
    (∀ n, t.hs.get n = ⟨0x67452301, 0xEFCDAB89, 0x98BADCFE, 0x10325476⟩) ∧ t.status.toWord = 0x00000001 ∧
    t.out = List.replicate 16 0x00 ∧ t.hex = List.replicate 32 0x00 ∧ t.src = 0 ∧ t.len = 0 ∧ t.nblk = 0) ∧
  (∀ s : State, ∃ t, exec .init s = .next t ∧ t.h = ⟨0x67452301, 0xEFCDAB89, 0x98BADCFE, 0x10325476⟩ ∧
    (∀ n, t.hs.get n = ⟨0x67452301, 0xEFCDAB89, 0x98BADCFE, 0x10325476⟩) ∧ t.status.toWord = 0x00000001 ∧
    t.out = List.replicate 16 0x00 ∧ t.hex = List.replicate 32 0x00 ∧
    t.src = s.src ∧ t.len = s.len ∧ t.nblk = s.nblk) ∧
  State.reset.h = ⟨0x67452301, 0xEFCDAB89, 0x98BADCFE, 0x10325476⟩ ∧
  (∀ n, State.reset.hs.get n = ⟨0x67452301, 0xEFCDAB89, 0x98BADCFE, 0x10325476⟩) ∧
  State.reset.status.toWord = 0x00000001 ∧ State.reset.out = List.replicate 16 0x00 ∧
  State.reset.hex = List.replicate 32 0x00 ∧ State.reset.src = 0 ∧ State.reset.len = 0 ∧ State.reset.nblk = 0

/-! ### The invariant -/

/-- The state after reset meets the invariant. -/
def Obligations.ResetMeetsTheInvariant : Prop := State.reset.Inv

/-- Every step keeps the invariant. -/
def Obligations.StepKeepsTheInvariant : Prop :=
  ∀ s t : State, s.Inv → step s = .next t → t.Inv

/-- In a state of the invariant STATUS reads as one of the eleven values of 95_test_vectors.md section 9. -/
def Obligations.StatusValuesThatCanOccur : Prop :=
  ∀ s : State, s.Inv →
    s.status.toWord ∈ ([0x00, 0x01, 0x02, 0x14, 0x15, 0x16, 0x24, 0x26, 0x34, 0x35, 0x36] : List Word)

/-! ### Message memory (20_memory.md, 30_encoding.md section 5) -/

/-- The host's MEMW stores exactly its bytes at addr .. addr+n-1 and changes nothing else; outside MEM it stops the run
(R99; the stop is the model's, log entry 7). -/
def Obligations.HostMemoryWriteStoresItsBytes : Prop :=
  ∀ (s : State) (addr : Nat) (bytes : List Byte), Memory.wf s.mem = true →
    (addr + bytes.length ≤ s.memSize →
      ∃ m, performAction (.memw addr bytes) s = .next { s with mem := m } ∧
        ∀ a, Memory.read m a =
          if addr ≤ a ∧ a < addr + bytes.length then bytes.getD (a - addr) 0 else Memory.read s.mem a) ∧
    (s.memSize < addr + bytes.length → performAction (.memw addr bytes) s = .fault .hostMemWriteOutOfRange)

/-- Two memories in canonical form with the same bytes are the same data (the model's own form, log entry 1). -/
def Obligations.EqualContentsAreEqualMemories : Prop :=
  ∀ m m' : List Host.Cell, Memory.wf m = true → Memory.wf m' = true →
    (∀ a, Memory.read m a = Memory.read m' a) → m = m'

/-- R81: bytes of MEM outside the range a command reads do not influence it. -/
def Obligations.BytesOutsideTheRangeDoNotMatter : Prop :=
  ∀ (i : Instr) (s t : State) (m : List Host.Cell),
    (∀ n, bytesRead s i = some n →
      ∀ j, j < n → Memory.read m (s.src.toNat + j) = Memory.read s.mem (s.src.toNat + j)) →
    exec i s = .next t → exec i { s with mem := m } = .next { t with mem := m }

/-! ### Unit U0 (40_rom_and_primitives.md) -/

/-- R121: addition of data words is modulo 2^32, commutative and associative, and silent. -/
def Obligations.AdditionIsModular : Prop :=
  (∀ x y : Word, (add32 x y).toNat = (x.toNat + y.toNat) % 2 ^ 32) ∧
  (∀ x y : Word, add32 x y = add32 y x) ∧ (∀ x y z : Word, add32 (add32 x y) z = add32 x (add32 y z)) ∧
  (∀ x : Word, add32 x 0 = x) ∧ add32 0xFFFFFFFF 1 = 0 ∧ add32 0x80000000 0x80000000 = 0 ∧
  add32 0x67452301 0x98BADCFE = 0xFFFFFFFF

/-- R122: the rotation as arithmetic and bit by bit, and the amounts the ROM supplies. -/
def Obligations.RotationMovesEveryBit : Prop :=
  (∀ (x : Word) (n : Nat), 1 ≤ n → n ≤ 31 →
    (rotl32 x n).toNat = (x.toNat * 2 ^ n) % 2 ^ 32 + x.toNat / 2 ^ (32 - n)) ∧
  (∀ x : Word, rotl32 x 0 = x) ∧
  (∀ (x : Word) (n j : Nat), n ≤ 31 → j < 32 → (rotl32 x n).getLsbD ((j + n) % 32) = x.getLsbD j) ∧
  (∀ n, n ≤ 31 → rotl32 0xFFFFFFFF n = 0xFFFFFFFF ∧ rotl32 0 n = 0) ∧
  rotl32 0x80000001 1 = 0x00000003 ∧ rotl32 0x80000001 31 = 0xC0000000 ∧ rotl32 0x12345678 7 = 0x1A2B3C09 ∧
  ∀ i, i < 64 → sAmount i ∈ [4, 5, 6, 7, 9, 10, 11, 12, 14, 15, 16, 17, 20, 21, 22, 23]

/-- R123: the four nonlinear functions bit by bit, and their equivalent forms. -/
def Obligations.NonlinearFunctionsBitByBit : Prop :=
  (∀ (b c d : Word) (j : Nat), j < 32 →
    (ff 0 b c d).getLsbD j = (if b.getLsbD j then c.getLsbD j else d.getLsbD j) ∧
    (ff 1 b c d).getLsbD j = (if d.getLsbD j then b.getLsbD j else c.getLsbD j) ∧
    (ff 2 b c d).getLsbD j = (b.getLsbD j ^^ c.getLsbD j ^^ d.getLsbD j) ∧
    (ff 3 b c d).getLsbD j = (c.getLsbD j ^^ (b.getLsbD j || !d.getLsbD j))) ∧
  (∀ b c d : Word, ff 0 b c d = d ^^^ (b &&& (c ^^^ d)) ∧ ff 1 b c d = c ^^^ (d &&& (b ^^^ c)) ∧
    ff 0 b c d = (b &&& c) ^^^ (~~~b &&& d) ∧ ff 0 b c d = add32 (b &&& c) (~~~b &&& d) ∧
    ff 1 b c d = (b &&& d) ^^^ (c &&& ~~~d) ∧ ff 1 b c d = add32 (b &&& d) (c &&& ~~~d)) ∧
  (∀ q, q < 3 → ff q 0 0 0 = 0 ∧ ff q 0xFFFFFFFF 0xFFFFFFFF 0xFFFFFFFF = 0xFFFFFFFF) ∧
  ff 3 0 0 0 = 0xFFFFFFFF ∧ ff 3 0xFFFFFFFF 0xFFFFFFFF 0xFFFFFFFF = 0 ∧
  ff 0 0xEFCDAB89 0x98BADCFE 0x10325476 = 0x98BADCFE ∧ ff 1 0xEFCDAB89 0x98BADCFE 0x10325476 = 0x88888888 ∧
  ff 2 0xEFCDAB89 0x98BADCFE 0x10325476 = 0x67452301 ∧ ff 3 0xEFCDAB89 0x98BADCFE 0x10325476 = 0x77777777

/-- R125, R126: the S column by quartile and the closed form of the g column, a permutation in every quartile. -/
def Obligations.RomColumnsFollowTheirPatterns : Prop :=
  (∀ i, i < 64 → sAmount i =
    (([[7, 12, 17, 22], [5, 9, 14, 20], [4, 11, 16, 23], [6, 10, 15, 21]] : List (List Nat)).getD (i / 16) []).getD
      (i % 4) 0) ∧
  (∀ i, i < 64 → gIndex i =
    (([i, (5 * i + 1) % 16, (3 * i + 5) % 16, (7 * i) % 16] : List Nat).getD (i / 16) 0)) ∧
  (∀ q, q < 4 → ∀ j, j < 16 → ((List.range 16).map fun k => gIndex (16 * q + k)).count j = 1) ∧
  romK.length = 64 ∧ romS.length = 64 ∧ romG.length = 64

/-- R133 to R137 and R139: every micro-operation, lane by lane. -/
def Obligations.MicroOperationsLaneByLane : Prop :=
  (∀ (n : Nat) (x y z : VReg n) (j q a : Nat) (w : Word), j < n →
    lane (vadd x y) j = add32 (lane x j) (lane y j) ∧ lane (vand x y) j = lane x j &&& lane y j ∧
    lane (vor x y) j = lane x j ||| lane y j ∧ lane (vxor x y) j = lane x j ^^^ lane y j ∧
    lane (vnot x) j = lane x j ^^^ 0xFFFFFFFF ∧ lane (vandn x y) j = ~~~(lane x j) &&& lane y j ∧
    lane (vff q x y z) j = ff q (lane x j) (lane y j) (lane z j) ∧
    lane (vrotl x a) j = rotl32 (lane x j) a ∧ lane (vbcast n w) j = w) ∧
  (∀ (m : List Host.Cell) (p i s : Nat), s < 8 →
    lane (vgather m p i) s = BitVec.ofNat 32 (memReadLE m (p + 64 * s + 4 * gIndex i) 4)) ∧
  ∀ (v : VReg 4) (newb : Word), lane (vperm v newb) 0 = lane v 3 ∧ lane (vperm v newb) 1 = newb ∧
    lane (vperm v newb) 2 = lane v 1 ∧ lane (vperm v newb) 3 = lane v 2

/-- R138: packing and unpacking are inverse to each other, on the 128-bit and on the 256-bit registers. -/
def Obligations.PackingAndUnpackingAreInverse : Prop :=
  (∀ h : Quad, vunpack4 (vpack4 h) = h) ∧ (∀ v : VReg 4, vpack4 (vunpack4 v) = v) ∧
  (∀ hs : Bank, vunpack8 (vpack8 hs) = hs) ∧ (∀ v : Planes, vpack8 (vunpack8 v) = v) ∧
  (∀ (h : Quad) (k : Fin 4), lane (vpack4 h) k.val = h.get k) ∧
  ∀ (hs : Bank) (n : Fin 8), lane (vpack8 hs).va n.val = (hs.get n).get 0 ∧
    lane (vpack8 hs).vb n.val = (hs.get n).get 1 ∧ lane (vpack8 hs).vc n.val = (hs.get n).get 2 ∧
    lane (vpack8 hs).vd n.val = (hs.get n).get 3

/-! ### Units U1, U2, U3 (41, 42, 43) -/

/-- R160 to R163: the sixteen words of a block, every one of the 64 rounds with its simultaneous assignment, and the
add-back. -/
def Obligations.CompressRunsTheSixtyFourRounds : Prop :=
  (∀ (h : Quad) (blk : List Byte), blk.length = 64 → ∃ s : Nat → Quad,
    (∀ j, j < 16 → (wordAt blk j).toNat =
      (blk.getD (4 * j) 0).toNat + (blk.getD (4 * j + 1) 0).toNat * 2 ^ 8 +
        (blk.getD (4 * j + 2) 0).toNat * 2 ^ 16 + (blk.getD (4 * j + 3) 0).toNat * 2 ^ 24) ∧
    s 0 = h ∧
    (∀ i, i < 64 →
      let f := ff (i / 16) (s i).b (s i).c (s i).d
      let sum := ((s i).a.toNat + f.toNat + (kConst i).toNat + (wordAt blk (gIndex i)).toNat) % 2 ^ 32
      s (i + 1) = ⟨(s i).d, add32 (s i).b (rotl32 (BitVec.ofNat 32 sum) (sAmount i)), (s i).b, (s i).c⟩) ∧
    ∀ k : Fin 4, (compress h blk).get k = add32 (h.get k) ((s 64).get k)) ∧
  wordAt ((List.range 64).map (BitVec.ofNat 8)) 0 = 0x03020100 ∧
  wordAt ((List.range 64).map (BitVec.ofNat 8)) 15 = 0x3F3E3D3C

/-- R183: U2 computes the compression function, and no command tells the two units apart. -/
def Obligations.SingleStreamUnitComputesCompress : Prop :=
  (∀ (h : Quad) (blk : List Byte), blk.length = 64 → compressV h blk = compress h blk) ∧
  ∀ s : State, exec .xfrmV s = exec .xfrmS s ∧ exec .xfrmnV s = exec .xfrmnS s ∧ exec .digestV s = exec .digestS s

/-- R206: one batch is, per stream, the compression of that stream's own block. -/
def Obligations.BatchComputesCompressPerStream : Prop :=
  ∀ (m : List Host.Cell) (hs : Bank) (p : Nat) (n : Fin 8),
    (batch8 m hs p).get n = compress (hs.get n) (memRead m (p + 64 * n.val) 64)

/-- R207: a lane's result depends on that lane's state and block only, whichever lane, bank or memory they stand in. -/
def Obligations.LanesAreIndependent : Prop :=
  ∀ (m m' : List Host.Cell) (hs hs' : Bank) (p p' : Nat) (n n' : Fin 8),
    hs.get n = hs'.get n' →
    (∀ j, j < 64 → Memory.read m (p + 64 * n.val + j) = Memory.read m' (p' + 64 * n'.val + j)) →
    (batch8 m hs p).get n = (batch8 m' hs' p').get n'

/-! ### Transform commands -/

/-- R165, R184: XFRM.S and XFRM.V, whole next state, error, and the worked examples. -/
def Obligations.XfrmCompressesOneBlockIntoH : Prop :=
  (∀ i ∈ [Instr.xfrmS, Instr.xfrmV], ∀ s : State,
    (s.src.toNat + 64 ≤ s.memSize →
      exec i s = .next { s with
        h := compress s.h (memRead s.mem s.src.toNat 64), status := { s.status with fresh := false } }) ∧
    (s.memSize < s.src.toNat + 64 →
      exec i s = .next { s with status := { s.status with err := true, errcode := 3 } })) ∧
  compress iv ([0x61, 0x62, 0x63, 0x80] ++ List.replicate 52 0x00 ++ [0x18] ++ List.replicate 7 0x00) =
    ⟨0x98500190, 0xB04FD23C, 0x7D3F96D6, 0x727FE128⟩ ∧
  compress iv ((List.range 64).map (BitVec.ofNat 8)) = ⟨0x9144D9CA, 0xD901E4C9, 0x72FC5B38, 0x625FF51E⟩

/-- R166, R185: XFRMN.S and XFRMN.V chain NBLK blocks in order, whole next state and error; FRESH is cleared also for
NBLK = 0; the worked examples on MEM[n] = n mod 251. -/
def Obligations.XfrmnChainsBlocksIntoH : Prop :=
  (∀ i ∈ [Instr.xfrmnS, Instr.xfrmnV], ∀ s : State,
    (s.src.toNat + 64 * s.nblk.toNat ≤ s.memSize →
      ∃ chain : Nat → Quad, chain 0 = s.h ∧
        (∀ j, chain (j + 1) = compress (chain j) (memRead s.mem (s.src.toNat + 64 * j) 64)) ∧
        exec i s = .next { s with h := chain s.nblk.toNat, status := { s.status with fresh := false } }) ∧
    (s.memSize < s.src.toNat + 64 * s.nblk.toNat →
      exec i s = .next { s with status := { s.status with err := true, errcode := 3 } })) ∧
  (∀ s : State, s.h = iv → s.nblk = 2 → s.src = 0 → 128 ≤ s.memSize →
    (∀ n, n < 128 → Memory.read s.mem n = BitVec.ofNat 8 (n % 251)) →
    exec .xfrmnS s = .next { s with
      h := ⟨0xB85E4FD4, 0xB03CCF42, 0xFC8D902D, 0x0E1B9628⟩, status := { s.status with fresh := false } }) ∧
  ∀ s : State, s.h = iv → s.nblk = 8 → s.src = 0 → 512 ≤ s.memSize →
    (∀ n, n < 512 → Memory.read s.mem n = BitVec.ofNat 8 (n % 251)) →
    exec .xfrmnV s = .next { s with
      h := ⟨0xC0C793A3, 0xBB09852C, 0xEACAB42D, 0xA53C11E9⟩, status := { s.status with fresh := false } }

/-- XFRMN.p with NBLK = n leaves the H that n executions of XFRM.p leave, SRC advanced by 64 each time
(41_scalar_transform.md, the corner cases of XFRMN.S). -/
def Obligations.XfrmnIsRepeatedXfrm : Prop :=
  ∀ ip ∈ [(Instr.xfrmnS, Instr.xfrmS), (Instr.xfrmnV, Instr.xfrmV)], ∀ s t : State,
    s.memSize ≤ 2 ^ 61 - 1 → s.status.err = false → s.src.toNat + 64 * s.nblk.toNat ≤ s.memSize →
    exec ip.1 s = .next t →
    ∃ u, runActions ((List.range s.nblk.toNat).flatMap fun j => asmXfrm ip.2 (s.src + BitVec.ofNat 64 (64 * j))) s =
        .next u ∧ u.h = t.h

/-- R208: XFRM.B, whole next state, error, and the worked example. -/
def Obligations.XfrmBAdvancesEveryStream : Prop :=
  (∀ s : State,
    (s.src.toNat + 512 ≤ s.memSize →
      ∃ hs', exec .xfrmB s = .next { s with hs := hs' } ∧
        ∀ n : Fin 8, hs'.get n = compress (s.hs.get n) (memRead s.mem (s.src.toNat + 64 * n.val) 64)) ∧
    (s.memSize < s.src.toNat + 512 →
      exec .xfrmB s = .next { s with status := { s.status with err := true, errcode := 3 } })) ∧
  ∀ s : State, s.hs = ivBank → s.src = 0 → 512 ≤ s.memSize →
    (∀ n, n < 512 → Memory.read s.mem n = BitVec.ofNat 8 (n % 251)) →
    ∃ hs', exec .xfrmB s = .next { s with hs := hs' } ∧
      hs'.get 0 = ⟨0x9144D9CA, 0xD901E4C9, 0x72FC5B38, 0x625FF51E⟩ ∧
      hs'.get 7 = ⟨0x4077578B, 0xB857C98C, 0xDB7DB396, 0x5F8FD15A⟩

/-- R209, R210, R211: XFRMN.B, whole next state and error: block j goes to stream j mod 8, in order, every remainder block
with it; and the worked example NBLK = 9. -/
def Obligations.XfrmnBDealsBlocksToStreams : Prop :=
  (∀ s : State,
    (s.src.toNat + 64 * s.nblk.toNat ≤ s.memSize →
      ∃ bank : Nat → Bank, bank 0 = s.hs ∧
        (∀ j, bank (j + 1) = (bank j).set (Fin.ofNat 8 j)
          (compress ((bank j).get (Fin.ofNat 8 j)) (memRead s.mem (s.src.toNat + 64 * j) 64))) ∧
        exec .xfrmnB s = .next { s with hs := bank s.nblk.toNat }) ∧
    (s.memSize < s.src.toNat + 64 * s.nblk.toNat →
      exec .xfrmnB s = .next { s with status := { s.status with err := true, errcode := 3 } })) ∧
  ∀ s : State, s.hs = ivBank → s.src = 0 → s.nblk = 9 → 576 ≤ s.memSize →
    (∀ n, n < 576 → Memory.read s.mem n = BitVec.ofNat 8 (n % 251)) →
    ∃ hs', exec .xfrmnB s = .next { s with hs := hs' } ∧
      hs'.get 0 = ⟨0xF0F138D2, 0x76927A38, 0x84DE5AC0, 0x6C809137⟩ ∧
      hs'.get 1 = ⟨0x9A12B0A4, 0xEE7CE144, 0x234BB5C9, 0xD9AA5628⟩

/-- R212: XFRMN.B leaves in HS[n] what XFRM.S leaves in H when it is loaded with HS[n] and run on the blocks n, n+8,
n+16, ... below NBLK in order. -/
def Obligations.BatchedPathMatchesScalarPerStream : Prop :=
  ∀ (s t : State) (n : Fin 8), s.memSize ≤ 2 ^ 61 - 1 → s.status.err = false →
    s.src.toNat + 64 * s.nblk.toNat ≤ s.memSize → exec .xfrmnB s = .next t →
    ∃ u, runActions (asmLdh (s.hs.get n) ++
        ((List.range s.nblk.toNat).filter (fun j => j % 8 == n.val)).flatMap fun j =>
          asmXfrm .xfrmS (s.src + BitVec.ofNat 64 (64 * j))) s = .next u ∧
      u.h = t.hs.get n

/-- Eight messages whose padded forms have m frames each, dealt out block by block: INIT and XFRMN.B with NBLK = 8*m leave
the digest state of message n in HS[n] (43_batched_8way.md, use for eight messages). -/
def Obligations.EightMessagesInOneBatchedRun : Prop :=
  ∀ (s : State) (msgs : Fin 8 → List Byte) (m : Nat), (∀ n, (frames (msgs n)).length = m) →
    s.nblk.toNat = 8 * m → s.src.toNat + 64 * (8 * m) ≤ s.memSize →
    (∀ (n : Fin 8) t, t < m →
      memRead s.mem (s.src.toNat + 64 * (8 * t + n.val)) 64 = (frames (msgs n)).getD t []) →
    ∃ u, runActions [command .init, command .xfrmnB] s = .next u ∧ ∀ n, u.hs.get n = md5state (msgs n)

/-! ### Driver (44_digest_driver.md) -/

/-- R241: INIT, whole next state, also from an errored instance. -/
def Obligations.InitConstructsAFreshInstance : Prop :=
  ∀ s : State,
    exec .init s = .next { s with
      h := ⟨0x67452301, 0xEFCDAB89, 0x98BADCFE, 0x10325476⟩,
      hs := Bank.ofFn fun _ => ⟨0x67452301, 0xEFCDAB89, 0x98BADCFE, 0x10325476⟩,
      out := List.replicate 16 0x00, hex := List.replicate 32 0x00,
      status := { fresh := true, done := false, err := false, errcode := 0 } } ∧
    performAction (command .init) s = exec .init s ∧
    ∃ t, exec .init s = .next t ∧ readReg t (Reg.ofNumber 8) = 0x67452301 ∧
      readReg t (Reg.ofNumber 1) = 0x00000001

/-- R231, R232: the padded message and its frames. -/
def Obligations.PaddingShape : Prop :=
  ∀ msg : List Byte, msg.length ≤ 2 ^ 61 - 1 →
    (∃ z : Nat, z < 64 ∧ (z : Int) = (55 - (msg.length : Int)) % 64 ∧
      pad msg = msg ++ [0x80] ++ List.replicate z 0x00 ++ leBytes 8 (BitVec.ofNat 64 (8 * msg.length)) ∧
      (pad msg).length = msg.length + 1 + z + 8) ∧
    (pad msg).length % 64 = 0 ∧ msg.length + 9 ≤ (pad msg).length ∧ (pad msg).length < msg.length + 9 + 64 ∧
    (frames msg).length = (msg.length + 8) / 64 + 1 ∧ (∀ f ∈ frames msg, f.length = 64) ∧
    (frames msg).flatten = pad msg ∧
    ∀ t, t < msg.length / 64 → (frames msg)[t]? = some ((msg.drop (64 * t)).take 64)

/-- R239: one padding frame follows the full blocks when LEN mod 64 <= 55 and two when it is more, with the bytes each
holds. -/
def Obligations.ExtraFrameFromFiftySixOn : Prop :=
  ∀ msg : List Byte,
    let full := msg.length / 64
    let r := msg.length % 64
    let tail := msg.drop (64 * full)
    let suffix := leBytes 8 (BitVec.ofNat 64 (8 * msg.length))
    (frames msg).length = (msg.length + 8) / 64 + 1 ∧
    (r ≤ 55 → (frames msg).length = full + 1 ∧
      (frames msg)[full]? = some (tail ++ [0x80] ++ List.replicate (55 - r) 0x00 ++ suffix)) ∧
    (56 ≤ r → (frames msg).length = full + 2 ∧
      (frames msg)[full]? = some (tail ++ [0x80] ++ List.replicate (63 - r) 0x00) ∧
      (frames msg)[full + 1]? = some (List.replicate 56 0x00 ++ suffix))

/-- R240: the last eight bytes of the last frame are the whole bit length, little-endian, never truncated to 32 bits. -/
def Obligations.LengthSuffixIsTheWholeBitLength : Prop :=
  (∀ msg : List Byte, msg.length ≤ 2 ^ 61 - 1 →
    ∃ f, (frames msg).getLast? = some f ∧ (f.drop 56).length = 8 ∧ leNat (f.drop 56) = 8 * msg.length) ∧
  ∀ msg : List Byte, msg.length = 2 ^ 29 →
    ∃ f, (frames msg).getLast? = some f ∧ f.drop 56 = [0x00, 0x00, 0x00, 0x00, 0x01, 0x00, 0x00, 0x00]

/-- R238: the procedure that streams the full blocks and assembles the last one or two frames chains exactly the frames of
the padded message, for any compression; with compress from IV it is md5state. -/
def Obligations.PaddingProcedureChainsTheFrames : Prop :=
  (∀ (xf : Quad → List Byte → Quad) (m : List Host.Cell) (p len : Nat) (h : Quad),
    digestProcedure xf m p len h = (frames (memRead m p len)).foldl xf h) ∧
  ∀ (m : List Host.Cell) (p len : Nat), digestProcedure compress m p len iv = md5state (memRead m p len)

/-- R242, R243, R244: DIGEST.S, DIGEST.V and DIGEST.B, whole next state and both errors, and the worked examples. FRESH = 1
implies H = IV is the invariant's. -/
def Obligations.DigestComputesTheMd5State : Prop :=
  (∀ i ∈ [Instr.digestS, Instr.digestV, Instr.digestB], ∀ s : State, (s.status.fresh = true → s.h = iv) →
    (s.status.fresh = true → s.src.toNat + s.len.toNat ≤ s.memSize →
      exec i s = .next { s with
        h := md5state (memRead s.mem s.src.toNat s.len.toNat),
        status := { s.status with fresh := false, done := true } }) ∧
    (s.status.fresh = false →
      exec i s = .next { s with status := { s.status with err := true, errcode := 2 } }) ∧
    (s.status.fresh = true → s.memSize < s.src.toNat + s.len.toNat →
      exec i s = .next { s with status := { s.status with err := true, errcode := 3 } })) ∧
  md5state [] = ⟨0xD98C1DD4, 0x04B2008F, 0x980980E9, 0x7E42F8EC⟩ ∧
  md5state [0x61, 0x62, 0x63] = ⟨0x98500190, 0xB04FD23C, 0x7D3F96D6, 0x727FE128⟩ ∧
  md5 ("The quick brown fox jumps over the lazy dog".toList.map fun c => BitVec.ofNat 8 c.toNat) =
    [0x9e, 0x10, 0x7d, 0x9d, 0x37, 0x2b, 0xb6, 0x82, 0x6b, 0xd8, 0x1d, 0x35, 0x42, 0xa4, 0x19, 0xd6] ∧
  md5 ((List.range 576).map fun n => BitVec.ofNat 8 (n % 251)) =
    [0x78, 0x15, 0x2e, 0x21, 0xdc, 0xad, 0xb5, 0xb7, 0x54, 0xa9, 0x25, 0xe5, 0xb7, 0x21, 0x83, 0xeb]

/-- R246: the three paths compute the same compression, and the three DIGEST commands lead from every fresh state to the
same H and, with GETHASH after them, to the same OUT; from every state they do the same altogether. -/
def Obligations.PathsAgreeFromEveryState : Prop :=
  (∀ (h : Quad) (blk : List Byte), blk.length = 64 → compressV h blk = compress h blk) ∧
  (∀ (m : List Host.Cell) (hs : Bank) (p : Nat) (n : Fin 8),
    (batch8 m hs p).get n = compress (hs.get n) (memRead m (p + 64 * n.val) 64)) ∧
  (∀ s : State, exec .digestV s = exec .digestS s ∧ exec .digestB s = exec .digestS s) ∧
  ∀ i ∈ [Instr.digestS, Instr.digestV, Instr.digestB], ∀ s : State, s.status.fresh = true → s.status.err = false →
    s.h = iv → s.src.toNat + s.len.toNat ≤ s.memSize →
    ∃ t, runActions [command i, command .getHash] s = .next t ∧
      t.h = md5state (message s) ∧ t.out = md5 (message s)

/-- R250: the three known answers of the source, on every path, from every fresh instance. -/
def Obligations.KnownAnswersOfTheSource : Prop :=
  ∀ ka ∈ [("", "d41d8cd98f00b204e9800998ecf8427e"), ("abc", "900150983cd24fb0d6963f7d28e17f72"),
      ("The quick brown fox jumps over the lazy dog", "9e107d9d372bb6826bd81d3542a419d6")],
    ∀ i ∈ [Instr.digestS, Instr.digestV, Instr.digestB], ∀ s : State,
      s.src.toNat + s.len.toNat ≤ s.memSize →
      memRead s.mem s.src.toNat s.len.toNat = ka.1.toList.map (fun c => BitVec.ofNat 8 c.toNat) →
      ∃ t, runActions [command .init, command i, command .getHex] s = .next t ∧
        t.hex = ka.2.toList.map (fun c => BitVec.ofNat 8 c.toNat)

/-- R247, R65: GETHASH, whole next state, byte by byte; then OUTn reads as Hn; and the worked examples. -/
def Obligations.GetHashRendersLittleEndianBytes : Prop :=
  (∀ s : State, ∃ out', exec .getHash s = .next { s with out := out' } ∧ out'.length = 16 ∧
    (∀ (k : Fin 4) (j : Nat), j < 4 → out'[4 * k.val + j]? = some ((s.h.get k).extractLsb' (8 * j) 8)) ∧
    ∀ n : Fin 4, readReg { s with out := out' } (.out n) = (s.h.get n).setWidth 64) ∧
  digestBytes iv = [0x01, 0x23, 0x45, 0x67, 0x89, 0xAB, 0xCD, 0xEF, 0xFE, 0xDC, 0xBA, 0x98, 0x76, 0x54, 0x32, 0x10] ∧
  digestBytes ⟨0xD98C1DD4, 0x04B2008F, 0x980980E9, 0x7E42F8EC⟩ =
    [0xD4, 0x1D, 0x8C, 0xD9, 0x8F, 0x00, 0xB2, 0x04, 0xE9, 0x80, 0x09, 0x98, 0xEC, 0xF8, 0x42, 0x7E] ∧
  ∀ b c d : Word, (digestBytes ⟨0x98500190, b, c, d⟩).take 4 = [0x90, 0x01, 0x50, 0x98]

/-- R248, R66, R236, R237: GETHEX, whole next state, character by character, always 32 characters of '0'..'9', 'a'..'f';
and the worked example. -/
def Obligations.GetHexRendersLowercaseHex : Prop :=
  (∀ s : State, ∃ hex', exec .getHex s = .next { s with hex := hex' } ∧ hex'.length = 32 ∧
    (∀ c ∈ hex', isHexCode c = true) ∧
    ∀ n, n < 16 → ∃ b, (digestBytes s.h)[n]? = some b ∧
      hex'[2 * n]? = some (hexchar (b.extractLsb' 4 4)) ∧ hex'[2 * n + 1]? = some (hexchar (b.extractLsb' 0 4))) ∧
  (∀ n : BitVec 4, (hexchar n).toNat = if n.toNat ≤ 9 then 0x30 + n.toNat else 0x61 + (n.toNat - 10)) ∧
  hexString (digestBytes iv) = "0123456789abcdeffedcba9876543210".toList.map (fun c => BitVec.ofNat 8 c.toNat) ∧
  ∀ s : State, s.h = ⟨0xD98C1DD4, 0x04B2008F, 0x980980E9, 0x7E42F8EC⟩ →
    ∃ t, exec .getHex s = .next t ∧
      t.hex = "d41d8cd98f00b204e9800998ecf8427e".toList.map (fun c => BitVec.ofNat 8 c.toNat) ∧
      readReg t (Reg.ofNumber 56) = 0x64313464

/-! ### Programs of host actions (30_encoding.md section 5, 70_reset_and_hazards.md) -/

/-- LDH loads H and clears FRESH; LDHS loads one stream; nothing else changes (30_encoding.md section 5). -/
def Obligations.LoadPseudoInstructions : Prop :=
  ∀ (s : State) (q : Quad),
    runActions (asmLdh q) s = .next { s with h := q, status := { s.status with fresh := false } } ∧
    ∀ n : Fin 8, runActions (asmLdhs n q) s = .next { s with hs := s.hs.set n q }

/-- A program of n actions that runs to its end takes n steps, from any index and whatever follows it in the list
(30_encoding.md section 5: one index a step; the list in State is the model's, log entry 3). -/
def Obligations.ProgramTakesOneStepPerAction : Prop :=
  ∀ (actions rest : List HostAction) (s t : State), runActions actions s = .next t →
    Sys2Proof.core.run actions.length { s with pending := actions ++ rest } =
      .next { t with pending := rest, index := s.index + actions.length }

/-- The whole public use, `MD5 src, len`, from every state, errored ones too: the end state, with the digest of the
message in OUT, its hexadecimal string in HEX, and STATUS = 0x00000002. -/
def Obligations.Md5ProgramDigestsTheMessage : Prop :=
  ∀ (s : State) (src len : DWord), src.toNat + len.toNat ≤ s.memSize →
    let msg := memRead s.mem src.toNat len.toNat
    ∃ t, runActions (asmMd5 src len) s = .next t ∧ t.status.toWord = 0x00000002 ∧
      t = { s with
        h := md5state msg, hs := ivBank, src := src, len := len, status := t.status,
        out := md5 msg, hex := hexString (md5 msg) }

/-- Whatever came before, INIT and a DIGEST on any path of equal message bytes, wherever they stand, leave the same H,
HS, STATUS, OUT and HEX (44_digest_driver.md section 5, determinism). -/
def Obligations.DigestDependsOnTheMessageOnly : Prop :=
  ∀ (s1 s2 : State) (i1 i2 : Instr), isDigest i1 = true → isDigest i2 = true →
    s1.src.toNat + s1.len.toNat ≤ s1.memSize → s2.src.toNat + s2.len.toNat ≤ s2.memSize →
    memRead s1.mem s1.src.toNat s1.len.toNat = memRead s2.mem s2.src.toNat s2.len.toNat →
    ∃ t1 t2, runActions [command .init, command i1] s1 = .next t1 ∧
      runActions [command .init, command i2] s2 = .next t2 ∧
      t1.h = t2.h ∧ t1.hs = t2.hs ∧ t1.status = t2.status ∧ t1.out = t2.out ∧ t1.hex = t2.hex

/-- A run that has produced a digest (Safety.lean, after R313) holds the MD5 state of the whole message in H, so that its
digest is MD5 of the message and never of a prefix (70_reset_and_hazards.md section 4, 44_digest_driver.md section 5). -/
def Obligations.ProducedDigestIsMd5OfTheMessage : Prop :=
  ∀ (actions : List HostAction) (s t : State) (msg : List Byte), s.Inv → ProducedDigest actions s t msg →
    t.h = md5state msg ∧ digestBytes t.h = md5 msg
end

