-- ==== Sys2Proof/Laws/State.lean ====
section
/-! SUPPORT. What each named update of State, and each operation made of one, does to each field, and what each update of
STATUS does to each of its fields: one lemma per field per update, true by unfolding once. They stand for rewriting in
place of unfolding: a proof that leaves `(writeH q s).src = s.src` to the kernel may make it compute q. -/

namespace Sys2Proof.Machine

variable (s : State)

@[simp] theorem State.setHStatus_h (q : Quad) (st : Status) : (s.setHStatus q st).h = q := (rfl)
@[simp] theorem State.setHStatus_hs (q : Quad) (st : Status) : (s.setHStatus q st).hs = s.hs := (rfl)
@[simp] theorem State.setHStatus_src (q : Quad) (st : Status) : (s.setHStatus q st).src = s.src := (rfl)
@[simp] theorem State.setHStatus_len (q : Quad) (st : Status) : (s.setHStatus q st).len = s.len := (rfl)
@[simp] theorem State.setHStatus_nblk (q : Quad) (st : Status) : (s.setHStatus q st).nblk = s.nblk := (rfl)
@[simp] theorem State.setHStatus_status (q : Quad) (st : Status) : (s.setHStatus q st).status = st := (rfl)
@[simp] theorem State.setHStatus_out (q : Quad) (st : Status) : (s.setHStatus q st).out = s.out := (rfl)
@[simp] theorem State.setHStatus_hex (q : Quad) (st : Status) : (s.setHStatus q st).hex = s.hex := (rfl)
@[simp] theorem State.setHStatus_mem (q : Quad) (st : Status) : (s.setHStatus q st).mem = s.mem := (rfl)
@[simp] theorem State.setHStatus_memSize (q : Quad) (st : Status) : (s.setHStatus q st).memSize = s.memSize := (rfl)
@[simp] theorem State.setHStatus_pending (q : Quad) (st : Status) : (s.setHStatus q st).pending = s.pending := (rfl)
@[simp] theorem State.setHStatus_index (q : Quad) (st : Status) : (s.setHStatus q st).index = s.index := (rfl)
@[simp] theorem State.setHStatus_outputs (q : Quad) (st : Status) : (s.setHStatus q st).outputs = s.outputs := (rfl)

@[simp] theorem State.setHs_h (b : Bank) : (s.setHs b).h = s.h := (rfl)
@[simp] theorem State.setHs_hs (b : Bank) : (s.setHs b).hs = b := (rfl)
@[simp] theorem State.setHs_src (b : Bank) : (s.setHs b).src = s.src := (rfl)
@[simp] theorem State.setHs_len (b : Bank) : (s.setHs b).len = s.len := (rfl)
@[simp] theorem State.setHs_nblk (b : Bank) : (s.setHs b).nblk = s.nblk := (rfl)
@[simp] theorem State.setHs_status (b : Bank) : (s.setHs b).status = s.status := (rfl)
@[simp] theorem State.setHs_out (b : Bank) : (s.setHs b).out = s.out := (rfl)
@[simp] theorem State.setHs_hex (b : Bank) : (s.setHs b).hex = s.hex := (rfl)
@[simp] theorem State.setHs_mem (b : Bank) : (s.setHs b).mem = s.mem := (rfl)
@[simp] theorem State.setHs_memSize (b : Bank) : (s.setHs b).memSize = s.memSize := (rfl)
@[simp] theorem State.setHs_pending (b : Bank) : (s.setHs b).pending = s.pending := (rfl)
@[simp] theorem State.setHs_index (b : Bank) : (s.setHs b).index = s.index := (rfl)
@[simp] theorem State.setHs_outputs (b : Bank) : (s.setHs b).outputs = s.outputs := (rfl)

@[simp] theorem State.setSrc_h (v : DWord) : (s.setSrc v).h = s.h := (rfl)
@[simp] theorem State.setSrc_hs (v : DWord) : (s.setSrc v).hs = s.hs := (rfl)
@[simp] theorem State.setSrc_src (v : DWord) : (s.setSrc v).src = v := (rfl)
@[simp] theorem State.setSrc_len (v : DWord) : (s.setSrc v).len = s.len := (rfl)
@[simp] theorem State.setSrc_nblk (v : DWord) : (s.setSrc v).nblk = s.nblk := (rfl)
@[simp] theorem State.setSrc_status (v : DWord) : (s.setSrc v).status = s.status := (rfl)
@[simp] theorem State.setSrc_out (v : DWord) : (s.setSrc v).out = s.out := (rfl)
@[simp] theorem State.setSrc_hex (v : DWord) : (s.setSrc v).hex = s.hex := (rfl)
@[simp] theorem State.setSrc_mem (v : DWord) : (s.setSrc v).mem = s.mem := (rfl)
@[simp] theorem State.setSrc_memSize (v : DWord) : (s.setSrc v).memSize = s.memSize := (rfl)
@[simp] theorem State.setSrc_pending (v : DWord) : (s.setSrc v).pending = s.pending := (rfl)
@[simp] theorem State.setSrc_index (v : DWord) : (s.setSrc v).index = s.index := (rfl)
@[simp] theorem State.setSrc_outputs (v : DWord) : (s.setSrc v).outputs = s.outputs := (rfl)

@[simp] theorem State.setLen_h (v : DWord) : (s.setLen v).h = s.h := (rfl)
@[simp] theorem State.setLen_hs (v : DWord) : (s.setLen v).hs = s.hs := (rfl)
@[simp] theorem State.setLen_src (v : DWord) : (s.setLen v).src = s.src := (rfl)
@[simp] theorem State.setLen_len (v : DWord) : (s.setLen v).len = v := (rfl)
@[simp] theorem State.setLen_nblk (v : DWord) : (s.setLen v).nblk = s.nblk := (rfl)
@[simp] theorem State.setLen_status (v : DWord) : (s.setLen v).status = s.status := (rfl)
@[simp] theorem State.setLen_out (v : DWord) : (s.setLen v).out = s.out := (rfl)
@[simp] theorem State.setLen_hex (v : DWord) : (s.setLen v).hex = s.hex := (rfl)
@[simp] theorem State.setLen_mem (v : DWord) : (s.setLen v).mem = s.mem := (rfl)
@[simp] theorem State.setLen_memSize (v : DWord) : (s.setLen v).memSize = s.memSize := (rfl)
@[simp] theorem State.setLen_pending (v : DWord) : (s.setLen v).pending = s.pending := (rfl)
@[simp] theorem State.setLen_index (v : DWord) : (s.setLen v).index = s.index := (rfl)
@[simp] theorem State.setLen_outputs (v : DWord) : (s.setLen v).outputs = s.outputs := (rfl)

@[simp] theorem State.setNblk_h (v : DWord) : (s.setNblk v).h = s.h := (rfl)
@[simp] theorem State.setNblk_hs (v : DWord) : (s.setNblk v).hs = s.hs := (rfl)
@[simp] theorem State.setNblk_src (v : DWord) : (s.setNblk v).src = s.src := (rfl)
@[simp] theorem State.setNblk_len (v : DWord) : (s.setNblk v).len = s.len := (rfl)
@[simp] theorem State.setNblk_nblk (v : DWord) : (s.setNblk v).nblk = v := (rfl)
@[simp] theorem State.setNblk_status (v : DWord) : (s.setNblk v).status = s.status := (rfl)
@[simp] theorem State.setNblk_out (v : DWord) : (s.setNblk v).out = s.out := (rfl)
@[simp] theorem State.setNblk_hex (v : DWord) : (s.setNblk v).hex = s.hex := (rfl)
@[simp] theorem State.setNblk_mem (v : DWord) : (s.setNblk v).mem = s.mem := (rfl)
@[simp] theorem State.setNblk_memSize (v : DWord) : (s.setNblk v).memSize = s.memSize := (rfl)
@[simp] theorem State.setNblk_pending (v : DWord) : (s.setNblk v).pending = s.pending := (rfl)
@[simp] theorem State.setNblk_index (v : DWord) : (s.setNblk v).index = s.index := (rfl)
@[simp] theorem State.setNblk_outputs (v : DWord) : (s.setNblk v).outputs = s.outputs := (rfl)

@[simp] theorem State.setStatus_h (st : Status) : (s.setStatus st).h = s.h := (rfl)
@[simp] theorem State.setStatus_hs (st : Status) : (s.setStatus st).hs = s.hs := (rfl)
@[simp] theorem State.setStatus_src (st : Status) : (s.setStatus st).src = s.src := (rfl)
@[simp] theorem State.setStatus_len (st : Status) : (s.setStatus st).len = s.len := (rfl)
@[simp] theorem State.setStatus_nblk (st : Status) : (s.setStatus st).nblk = s.nblk := (rfl)
@[simp] theorem State.setStatus_status (st : Status) : (s.setStatus st).status = st := (rfl)
@[simp] theorem State.setStatus_out (st : Status) : (s.setStatus st).out = s.out := (rfl)
@[simp] theorem State.setStatus_hex (st : Status) : (s.setStatus st).hex = s.hex := (rfl)
@[simp] theorem State.setStatus_mem (st : Status) : (s.setStatus st).mem = s.mem := (rfl)
@[simp] theorem State.setStatus_memSize (st : Status) : (s.setStatus st).memSize = s.memSize := (rfl)
@[simp] theorem State.setStatus_pending (st : Status) : (s.setStatus st).pending = s.pending := (rfl)
@[simp] theorem State.setStatus_index (st : Status) : (s.setStatus st).index = s.index := (rfl)
@[simp] theorem State.setStatus_outputs (st : Status) : (s.setStatus st).outputs = s.outputs := (rfl)

@[simp] theorem State.setOut_h (bs : List Byte) : (s.setOut bs).h = s.h := (rfl)
@[simp] theorem State.setOut_hs (bs : List Byte) : (s.setOut bs).hs = s.hs := (rfl)
@[simp] theorem State.setOut_src (bs : List Byte) : (s.setOut bs).src = s.src := (rfl)
@[simp] theorem State.setOut_len (bs : List Byte) : (s.setOut bs).len = s.len := (rfl)
@[simp] theorem State.setOut_nblk (bs : List Byte) : (s.setOut bs).nblk = s.nblk := (rfl)
@[simp] theorem State.setOut_status (bs : List Byte) : (s.setOut bs).status = s.status := (rfl)
@[simp] theorem State.setOut_out (bs : List Byte) : (s.setOut bs).out = bs := (rfl)
@[simp] theorem State.setOut_hex (bs : List Byte) : (s.setOut bs).hex = s.hex := (rfl)
@[simp] theorem State.setOut_mem (bs : List Byte) : (s.setOut bs).mem = s.mem := (rfl)
@[simp] theorem State.setOut_memSize (bs : List Byte) : (s.setOut bs).memSize = s.memSize := (rfl)
@[simp] theorem State.setOut_pending (bs : List Byte) : (s.setOut bs).pending = s.pending := (rfl)
@[simp] theorem State.setOut_index (bs : List Byte) : (s.setOut bs).index = s.index := (rfl)
@[simp] theorem State.setOut_outputs (bs : List Byte) : (s.setOut bs).outputs = s.outputs := (rfl)

@[simp] theorem State.setHex_h (bs : List Byte) : (s.setHex bs).h = s.h := (rfl)
@[simp] theorem State.setHex_hs (bs : List Byte) : (s.setHex bs).hs = s.hs := (rfl)
@[simp] theorem State.setHex_src (bs : List Byte) : (s.setHex bs).src = s.src := (rfl)
@[simp] theorem State.setHex_len (bs : List Byte) : (s.setHex bs).len = s.len := (rfl)
@[simp] theorem State.setHex_nblk (bs : List Byte) : (s.setHex bs).nblk = s.nblk := (rfl)
@[simp] theorem State.setHex_status (bs : List Byte) : (s.setHex bs).status = s.status := (rfl)
@[simp] theorem State.setHex_out (bs : List Byte) : (s.setHex bs).out = s.out := (rfl)
@[simp] theorem State.setHex_hex (bs : List Byte) : (s.setHex bs).hex = bs := (rfl)
@[simp] theorem State.setHex_mem (bs : List Byte) : (s.setHex bs).mem = s.mem := (rfl)
@[simp] theorem State.setHex_memSize (bs : List Byte) : (s.setHex bs).memSize = s.memSize := (rfl)
@[simp] theorem State.setHex_pending (bs : List Byte) : (s.setHex bs).pending = s.pending := (rfl)
@[simp] theorem State.setHex_index (bs : List Byte) : (s.setHex bs).index = s.index := (rfl)
@[simp] theorem State.setHex_outputs (bs : List Byte) : (s.setHex bs).outputs = s.outputs := (rfl)

@[simp] theorem State.setFresh_h : (s.setFresh).h = iv := (rfl)
@[simp] theorem State.setFresh_hs : (s.setFresh).hs = ivBank := (rfl)
@[simp] theorem State.setFresh_src : (s.setFresh).src = s.src := (rfl)
@[simp] theorem State.setFresh_len : (s.setFresh).len = s.len := (rfl)
@[simp] theorem State.setFresh_nblk : (s.setFresh).nblk = s.nblk := (rfl)
@[simp] theorem State.setFresh_status : (s.setFresh).status = Status.atReset := (rfl)
@[simp] theorem State.setFresh_out : (s.setFresh).out = List.replicate 16 0x00 := (rfl)
@[simp] theorem State.setFresh_hex : (s.setFresh).hex = List.replicate 32 0x00 := (rfl)
@[simp] theorem State.setFresh_mem : (s.setFresh).mem = s.mem := (rfl)
@[simp] theorem State.setFresh_memSize : (s.setFresh).memSize = s.memSize := (rfl)
@[simp] theorem State.setFresh_pending : (s.setFresh).pending = s.pending := (rfl)
@[simp] theorem State.setFresh_index : (s.setFresh).index = s.index := (rfl)
@[simp] theorem State.setFresh_outputs : (s.setFresh).outputs = s.outputs := (rfl)

@[simp] theorem State.setReset_h : (s.setReset).h = iv := (rfl)
@[simp] theorem State.setReset_hs : (s.setReset).hs = ivBank := (rfl)
@[simp] theorem State.setReset_src : (s.setReset).src = 0 := (rfl)
@[simp] theorem State.setReset_len : (s.setReset).len = 0 := (rfl)
@[simp] theorem State.setReset_nblk : (s.setReset).nblk = 0 := (rfl)
@[simp] theorem State.setReset_status : (s.setReset).status = Status.atReset := (rfl)
@[simp] theorem State.setReset_out : (s.setReset).out = List.replicate 16 0x00 := (rfl)
@[simp] theorem State.setReset_hex : (s.setReset).hex = List.replicate 32 0x00 := (rfl)
@[simp] theorem State.setReset_mem : (s.setReset).mem = s.mem := (rfl)
@[simp] theorem State.setReset_memSize : (s.setReset).memSize = s.memSize := (rfl)
@[simp] theorem State.setReset_pending : (s.setReset).pending = s.pending := (rfl)
@[simp] theorem State.setReset_index : (s.setReset).index = s.index := (rfl)
@[simp] theorem State.setReset_outputs : (s.setReset).outputs = s.outputs := (rfl)

@[simp] theorem State.setMem_h (m : List Host.Cell) : (s.setMem m).h = s.h := (rfl)
@[simp] theorem State.setMem_hs (m : List Host.Cell) : (s.setMem m).hs = s.hs := (rfl)
@[simp] theorem State.setMem_src (m : List Host.Cell) : (s.setMem m).src = s.src := (rfl)
@[simp] theorem State.setMem_len (m : List Host.Cell) : (s.setMem m).len = s.len := (rfl)
@[simp] theorem State.setMem_nblk (m : List Host.Cell) : (s.setMem m).nblk = s.nblk := (rfl)
@[simp] theorem State.setMem_status (m : List Host.Cell) : (s.setMem m).status = s.status := (rfl)
@[simp] theorem State.setMem_out (m : List Host.Cell) : (s.setMem m).out = s.out := (rfl)
@[simp] theorem State.setMem_hex (m : List Host.Cell) : (s.setMem m).hex = s.hex := (rfl)
@[simp] theorem State.setMem_mem (m : List Host.Cell) : (s.setMem m).mem = m := (rfl)
@[simp] theorem State.setMem_memSize (m : List Host.Cell) : (s.setMem m).memSize = s.memSize := (rfl)
@[simp] theorem State.setMem_pending (m : List Host.Cell) : (s.setMem m).pending = s.pending := (rfl)
@[simp] theorem State.setMem_index (m : List Host.Cell) : (s.setMem m).index = s.index := (rfl)
@[simp] theorem State.setMem_outputs (m : List Host.Cell) : (s.setMem m).outputs = s.outputs := (rfl)

@[simp] theorem State.popAction_h (r : List HostAction) : (s.popAction r).h = s.h := (rfl)
@[simp] theorem State.popAction_hs (r : List HostAction) : (s.popAction r).hs = s.hs := (rfl)
@[simp] theorem State.popAction_src (r : List HostAction) : (s.popAction r).src = s.src := (rfl)
@[simp] theorem State.popAction_len (r : List HostAction) : (s.popAction r).len = s.len := (rfl)
@[simp] theorem State.popAction_nblk (r : List HostAction) : (s.popAction r).nblk = s.nblk := (rfl)
@[simp] theorem State.popAction_status (r : List HostAction) : (s.popAction r).status = s.status := (rfl)
@[simp] theorem State.popAction_out (r : List HostAction) : (s.popAction r).out = s.out := (rfl)
@[simp] theorem State.popAction_hex (r : List HostAction) : (s.popAction r).hex = s.hex := (rfl)
@[simp] theorem State.popAction_mem (r : List HostAction) : (s.popAction r).mem = s.mem := (rfl)
@[simp] theorem State.popAction_memSize (r : List HostAction) : (s.popAction r).memSize = s.memSize := (rfl)
@[simp] theorem State.popAction_pending (r : List HostAction) : (s.popAction r).pending = r := (rfl)
@[simp] theorem State.popAction_index (r : List HostAction) : (s.popAction r).index = s.index + 1 := (rfl)
@[simp] theorem State.popAction_outputs (r : List HostAction) : (s.popAction r).outputs = s.outputs := (rfl)

@[simp] theorem State.pushOutput_h (v : DWord) : (s.pushOutput v).h = s.h := (rfl)
@[simp] theorem State.pushOutput_hs (v : DWord) : (s.pushOutput v).hs = s.hs := (rfl)
@[simp] theorem State.pushOutput_src (v : DWord) : (s.pushOutput v).src = s.src := (rfl)
@[simp] theorem State.pushOutput_len (v : DWord) : (s.pushOutput v).len = s.len := (rfl)
@[simp] theorem State.pushOutput_nblk (v : DWord) : (s.pushOutput v).nblk = s.nblk := (rfl)
@[simp] theorem State.pushOutput_status (v : DWord) : (s.pushOutput v).status = s.status := (rfl)
@[simp] theorem State.pushOutput_out (v : DWord) : (s.pushOutput v).out = s.out := (rfl)
@[simp] theorem State.pushOutput_hex (v : DWord) : (s.pushOutput v).hex = s.hex := (rfl)
@[simp] theorem State.pushOutput_mem (v : DWord) : (s.pushOutput v).mem = s.mem := (rfl)
@[simp] theorem State.pushOutput_memSize (v : DWord) : (s.pushOutput v).memSize = s.memSize := (rfl)
@[simp] theorem State.pushOutput_pending (v : DWord) : (s.pushOutput v).pending = s.pending := (rfl)
@[simp] theorem State.pushOutput_index (v : DWord) : (s.pushOutput v).index = s.index := (rfl)
@[simp] theorem State.pushOutput_outputs (v : DWord) : (s.pushOutput v).outputs = s.outputs ++ [v] := (rfl)

@[simp] theorem State.setPending_h (r : List HostAction) : (s.setPending r).h = s.h := (rfl)
@[simp] theorem State.setPending_hs (r : List HostAction) : (s.setPending r).hs = s.hs := (rfl)
@[simp] theorem State.setPending_src (r : List HostAction) : (s.setPending r).src = s.src := (rfl)
@[simp] theorem State.setPending_len (r : List HostAction) : (s.setPending r).len = s.len := (rfl)
@[simp] theorem State.setPending_nblk (r : List HostAction) : (s.setPending r).nblk = s.nblk := (rfl)
@[simp] theorem State.setPending_status (r : List HostAction) : (s.setPending r).status = s.status := (rfl)
@[simp] theorem State.setPending_out (r : List HostAction) : (s.setPending r).out = s.out := (rfl)
@[simp] theorem State.setPending_hex (r : List HostAction) : (s.setPending r).hex = s.hex := (rfl)
@[simp] theorem State.setPending_mem (r : List HostAction) : (s.setPending r).mem = s.mem := (rfl)
@[simp] theorem State.setPending_memSize (r : List HostAction) : (s.setPending r).memSize = s.memSize := (rfl)
@[simp] theorem State.setPending_pending (r : List HostAction) : (s.setPending r).pending = r := (rfl)
@[simp] theorem State.setPending_index (r : List HostAction) : (s.setPending r).index = s.index := (rfl)
@[simp] theorem State.setPending_outputs (r : List HostAction) : (s.setPending r).outputs = s.outputs := (rfl)

@[simp] theorem writeH_h (q : Quad) : (writeH q s).h = q := (rfl)
@[simp] theorem writeH_hs (q : Quad) : (writeH q s).hs = s.hs := (rfl)
@[simp] theorem writeH_src (q : Quad) : (writeH q s).src = s.src := (rfl)
@[simp] theorem writeH_len (q : Quad) : (writeH q s).len = s.len := (rfl)
@[simp] theorem writeH_nblk (q : Quad) : (writeH q s).nblk = s.nblk := (rfl)
@[simp] theorem writeH_status (q : Quad) : (writeH q s).status = s.status.clearFresh := (rfl)
@[simp] theorem writeH_out (q : Quad) : (writeH q s).out = s.out := (rfl)
@[simp] theorem writeH_hex (q : Quad) : (writeH q s).hex = s.hex := (rfl)
@[simp] theorem writeH_mem (q : Quad) : (writeH q s).mem = s.mem := (rfl)
@[simp] theorem writeH_memSize (q : Quad) : (writeH q s).memSize = s.memSize := (rfl)
@[simp] theorem writeH_pending (q : Quad) : (writeH q s).pending = s.pending := (rfl)
@[simp] theorem writeH_index (q : Quad) : (writeH q s).index = s.index := (rfl)
@[simp] theorem writeH_outputs (q : Quad) : (writeH q s).outputs = s.outputs := (rfl)

@[simp] theorem finishDigest_h (q : Quad) : (finishDigest q s).h = q := (rfl)
@[simp] theorem finishDigest_hs (q : Quad) : (finishDigest q s).hs = s.hs := (rfl)
@[simp] theorem finishDigest_src (q : Quad) : (finishDigest q s).src = s.src := (rfl)
@[simp] theorem finishDigest_len (q : Quad) : (finishDigest q s).len = s.len := (rfl)
@[simp] theorem finishDigest_nblk (q : Quad) : (finishDigest q s).nblk = s.nblk := (rfl)
@[simp] theorem finishDigest_status (q : Quad) : (finishDigest q s).status = s.status.digestDone := (rfl)
@[simp] theorem finishDigest_out (q : Quad) : (finishDigest q s).out = s.out := (rfl)
@[simp] theorem finishDigest_hex (q : Quad) : (finishDigest q s).hex = s.hex := (rfl)
@[simp] theorem finishDigest_mem (q : Quad) : (finishDigest q s).mem = s.mem := (rfl)
@[simp] theorem finishDigest_memSize (q : Quad) : (finishDigest q s).memSize = s.memSize := (rfl)
@[simp] theorem finishDigest_pending (q : Quad) : (finishDigest q s).pending = s.pending := (rfl)
@[simp] theorem finishDigest_index (q : Quad) : (finishDigest q s).index = s.index := (rfl)
@[simp] theorem finishDigest_outputs (q : Quad) : (finishDigest q s).outputs = s.outputs := (rfl)

@[simp] theorem raise_h (e : Cause) : (raise e s).h = s.h := (rfl)
@[simp] theorem raise_hs (e : Cause) : (raise e s).hs = s.hs := (rfl)
@[simp] theorem raise_src (e : Cause) : (raise e s).src = s.src := (rfl)
@[simp] theorem raise_len (e : Cause) : (raise e s).len = s.len := (rfl)
@[simp] theorem raise_nblk (e : Cause) : (raise e s).nblk = s.nblk := (rfl)
@[simp] theorem raise_status (e : Cause) : (raise e s).status = s.status.raised e := (rfl)
@[simp] theorem raise_out (e : Cause) : (raise e s).out = s.out := (rfl)
@[simp] theorem raise_hex (e : Cause) : (raise e s).hex = s.hex := (rfl)
@[simp] theorem raise_mem (e : Cause) : (raise e s).mem = s.mem := (rfl)
@[simp] theorem raise_memSize (e : Cause) : (raise e s).memSize = s.memSize := (rfl)
@[simp] theorem raise_pending (e : Cause) : (raise e s).pending = s.pending := (rfl)
@[simp] theorem raise_index (e : Cause) : (raise e s).index = s.index := (rfl)
@[simp] theorem raise_outputs (e : Cause) : (raise e s).outputs = s.outputs := (rfl)

@[simp] theorem freshInstance_h : (freshInstance s).h = iv := (rfl)
@[simp] theorem freshInstance_hs : (freshInstance s).hs = ivBank := (rfl)
@[simp] theorem freshInstance_src : (freshInstance s).src = s.src := (rfl)
@[simp] theorem freshInstance_len : (freshInstance s).len = s.len := (rfl)
@[simp] theorem freshInstance_nblk : (freshInstance s).nblk = s.nblk := (rfl)
@[simp] theorem freshInstance_status : (freshInstance s).status = Status.atReset := (rfl)
@[simp] theorem freshInstance_out : (freshInstance s).out = List.replicate 16 0x00 := (rfl)
@[simp] theorem freshInstance_hex : (freshInstance s).hex = List.replicate 32 0x00 := (rfl)
@[simp] theorem freshInstance_mem : (freshInstance s).mem = s.mem := (rfl)
@[simp] theorem freshInstance_memSize : (freshInstance s).memSize = s.memSize := (rfl)
@[simp] theorem freshInstance_pending : (freshInstance s).pending = s.pending := (rfl)
@[simp] theorem freshInstance_index : (freshInstance s).index = s.index := (rfl)
@[simp] theorem freshInstance_outputs : (freshInstance s).outputs = s.outputs := (rfl)

@[simp] theorem resetEngine_h : (resetEngine s).h = iv := (rfl)
@[simp] theorem resetEngine_hs : (resetEngine s).hs = ivBank := (rfl)
@[simp] theorem resetEngine_src : (resetEngine s).src = 0 := (rfl)
@[simp] theorem resetEngine_len : (resetEngine s).len = 0 := (rfl)
@[simp] theorem resetEngine_nblk : (resetEngine s).nblk = 0 := (rfl)
@[simp] theorem resetEngine_status : (resetEngine s).status = Status.atReset := (rfl)
@[simp] theorem resetEngine_out : (resetEngine s).out = List.replicate 16 0x00 := (rfl)
@[simp] theorem resetEngine_hex : (resetEngine s).hex = List.replicate 32 0x00 := (rfl)
@[simp] theorem resetEngine_mem : (resetEngine s).mem = s.mem := (rfl)
@[simp] theorem resetEngine_memSize : (resetEngine s).memSize = s.memSize := (rfl)
@[simp] theorem resetEngine_pending : (resetEngine s).pending = s.pending := (rfl)
@[simp] theorem resetEngine_index : (resetEngine s).index = s.index := (rfl)
@[simp] theorem resetEngine_outputs : (resetEngine s).outputs = s.outputs := (rfl)

variable (st : Status)

@[simp] theorem Status.clearFresh_fresh : (st.clearFresh).fresh = false := (rfl)
@[simp] theorem Status.clearFresh_done : (st.clearFresh).done = st.done := (rfl)
@[simp] theorem Status.clearFresh_err : (st.clearFresh).err = st.err := (rfl)
@[simp] theorem Status.clearFresh_errcode : (st.clearFresh).errcode = st.errcode := (rfl)

@[simp] theorem Status.digestDone_fresh : (st.digestDone).fresh = false := (rfl)
@[simp] theorem Status.digestDone_done : (st.digestDone).done = true := (rfl)
@[simp] theorem Status.digestDone_err : (st.digestDone).err = st.err := (rfl)
@[simp] theorem Status.digestDone_errcode : (st.digestDone).errcode = st.errcode := (rfl)

@[simp] theorem Status.raised_fresh (e : Cause) : (st.raised e).fresh = st.fresh := (rfl)
@[simp] theorem Status.raised_done (e : Cause) : (st.raised e).done = st.done := (rfl)
@[simp] theorem Status.raised_err (e : Cause) : (st.raised e).err = true := (rfl)
@[simp] theorem Status.raised_errcode (e : Cause) : (st.raised e).errcode = e.code := (rfl)

@[simp] theorem Status.atReset_fresh : Status.atReset.fresh = true := (rfl)
@[simp] theorem Status.atReset_done : Status.atReset.done = false := (rfl)
@[simp] theorem Status.atReset_err : Status.atReset.err = false := (rfl)
@[simp] theorem Status.atReset_errcode : Status.atReset.errcode = 0 := (rfl)

/-! ### The updates as records -/

theorem writeH_eq (q : Quad) : writeH q s = { s with h := q, status := { s.status with fresh := false } } := (rfl)

theorem finishDigest_eq (q : Quad) :
    finishDigest q s = { s with h := q, status := { s.status with fresh := false, done := true } } := (rfl)

theorem raise_eq (e : Cause) :
    raise e s = { s with status := { s.status with err := true, errcode := e.code } } := (rfl)

theorem setHs_eq (b : Bank) : s.setHs b = { s with hs := b } := (rfl)

theorem setOut_eq (bs : List Byte) : s.setOut bs = { s with out := bs } := (rfl)

theorem setHex_eq (bs : List Byte) : s.setHex bs = { s with hex := bs } := (rfl)

theorem setMem_eq (m : List Host.Cell) : s.setMem m = { s with mem := m } := (rfl)

end Sys2Proof.Machine
end

