-- ==== Sys2Proof/Laws/Memory.lean ====
section
/-! SUPPORT. Message memory: every operation keeps the canonical form and the address bound, a read after a write, and the
shape of MemRead. -/

namespace Sys2Proof.Machine

/-! ### The canonical form -/

theorem Memory.wfFrom_mono {m : List Host.Cell} {low low' : Nat} (h : low' ≤ low) (hm : Memory.wfFrom low m = true) :
    Memory.wfFrom low' m = true := by
  cases m with
  | nil => rfl
  | cons c m =>
    simp only [Memory.wfFrom, Bool.and_eq_true, decide_eq_true_eq] at hm ⊢
    exact ⟨⟨by omega, hm.1.2⟩, hm.2⟩

theorem Memory.wfFrom_cons {m : List Host.Cell} {low a : Nat} (h : low ≤ a) (v : Byte)
    (hm : Memory.wfFrom (a + 1) m = true) : Memory.wfFrom low (Memory.cons a v m) = true := by
  unfold Memory.cons
  split
  · exact Memory.wfFrom_mono (by omega) hm
  · simp only [Memory.wfFrom, Bool.and_eq_true, decide_eq_true_eq]
    exact ⟨⟨h, ‹_›⟩, hm⟩

theorem Memory.wfFrom_write {m : List Host.Cell} {low a : Nat} (h : low ≤ a) (v : Byte)
    (hm : Memory.wfFrom low m = true) : Memory.wfFrom low (Memory.write m a v) = true := by
  induction m generalizing low with
  | nil => exact Memory.wfFrom_cons h v rfl
  | cons c m ih =>
    obtain ⟨b, x⟩ := c
    have hm' := hm
    simp only [Memory.wfFrom, Bool.and_eq_true, decide_eq_true_eq] at hm'
    obtain ⟨⟨hlow, hx⟩, hrest⟩ := hm'
    unfold Memory.write
    split
    · refine Memory.wfFrom_cons h v ?_
      simp only [Memory.wfFrom, Bool.and_eq_true, decide_eq_true_eq]
      exact ⟨⟨by omega, hx⟩, hrest⟩
    · split
      · subst a; exact Memory.wfFrom_cons h v hrest
      · simp only [Memory.wfFrom, Bool.and_eq_true, decide_eq_true_eq]
        exact ⟨⟨hlow, hx⟩, ih (by omega) hrest⟩

/-- A write keeps the canonical form. -/
theorem Memory.wf_write {m : List Host.Cell} (hm : Memory.wf m = true) (a : Nat) (v : Byte) :
    Memory.wf (Memory.write m a v) = true :=
  Memory.wfFrom_write (Nat.zero_le a) v hm

/-- A write of a byte list keeps the canonical form. -/
theorem Memory.wf_memWrite {m : List Host.Cell} (hm : Memory.wf m = true) (a : Nat) (bytes : List Byte) :
    Memory.wf (memWrite m a bytes) = true := by
  induction bytes generalizing m a with
  | nil => exact hm
  | cons b bs ih => exact ih (Memory.wf_write hm a b) (a + 1)

theorem Memory.within_write {m : List Host.Cell} {n a : Nat} (hm : Memory.within n m = true) (h : a < n) (v : Byte) :
    Memory.within n (Memory.write m a v) = true := by
  have hcons : ∀ m' : List Host.Cell, Memory.within n m' = true → Memory.within n (Memory.cons a v m') = true := by
    intro m' h'
    unfold Memory.cons
    split
    · exact h'
    · simpa [Memory.within, h] using h'
  induction m with
  | nil => exact hcons [] rfl
  | cons c m ih =>
    obtain ⟨b, x⟩ := c
    have hm' : b < n ∧ Memory.within n m = true := by simpa [Memory.within] using hm
    unfold Memory.write
    split
    · exact hcons _ hm
    · split
      · exact hcons _ hm'.2
      · simpa [Memory.within, hm'.1] using ih hm'.2

/-- A write of a byte list inside MEM lists addresses inside MEM only. -/
theorem Memory.within_memWrite {m : List Host.Cell} {n : Nat} (hm : Memory.within n m = true) {a : Nat}
    {bytes : List Byte} (h : a + bytes.length ≤ n) : Memory.within n (memWrite m a bytes) = true := by
  induction bytes generalizing m a with
  | nil => exact hm
  | cons b bs ih =>
    simp only [List.length_cons] at h
    exact ih (Memory.within_write hm (by omega) b) (by omega)

/-! ### A read after a write -/

@[simp] theorem Memory.read_cons (a : Nat) (v : Byte) (m : List Host.Cell) (x : Nat)
    (hm : Memory.wfFrom (a + 1) m = true) : Memory.read (Memory.cons a v m) x = if x = a then v else Memory.read m x := by
  have below : ∀ {m : List Host.Cell} {low x : Nat}, Memory.wfFrom low m = true → x < low →
      Memory.read m x = Config.unwrittenByte := by
    intro m
    induction m with
    | nil => intros; rfl
    | cons c m ih =>
      intro low x hm hx
      simp only [Memory.wfFrom, Bool.and_eq_true, decide_eq_true_eq] at hm
      rw [Memory.read, if_neg (by omega), ih hm.2 (by omega)]
  unfold Memory.cons
  split
  · split
    · subst x v; exact below hm (by omega)
    · rfl
  · rfl

theorem Memory.read_write_from {m : List Host.Cell} {low : Nat} (hm : Memory.wfFrom low m = true) {a : Nat}
    (h : low ≤ a) (v : Byte) (x : Nat) :
    Memory.read (Memory.write m a v) x = if x = a then v else Memory.read m x := by
  induction m generalizing low with
  | nil => exact Memory.read_cons a v [] x rfl
  | cons c m ih =>
    obtain ⟨b, y⟩ := c
    have hm' := hm
    simp only [Memory.wfFrom, Bool.and_eq_true, decide_eq_true_eq] at hm'
    obtain ⟨⟨hlow, hy⟩, hrest⟩ := hm'
    unfold Memory.write
    split
    · refine Memory.read_cons a v _ x ?_
      simp only [Memory.wfFrom, Bool.and_eq_true, decide_eq_true_eq]
      exact ⟨⟨by omega, hy⟩, hrest⟩
    · split
      · subst a
        rw [Memory.read_cons b v m x hrest]
        simp only [Memory.read]
        split <;> rfl
      · simp only [Memory.read]
        rw [ih hrest (by omega)]
        split
        · rw [if_neg (by omega)]
        · rfl

/-- A read after a write gives the value written, and every other byte is as before. -/
theorem Memory.read_write {m : List Host.Cell} (hm : Memory.wf m = true) (a : Nat) (v : Byte) (x : Nat) :
    Memory.read (Memory.write m a v) x = if x = a then v else Memory.read m x :=
  Memory.read_write_from hm (Nat.zero_le a) v x

/-! ### MemRead -/

@[simp] theorem memRead_length (m : List Host.Cell) (a n : Nat) : (memRead m a n).length = n := by
  induction n generalizing a with
  | zero => rfl
  | succ n ih => simp [memRead, ih]

theorem memRead_add (m : List Host.Cell) (a n k : Nat) :
    memRead m a (n + k) = memRead m a n ++ memRead m (a + n) k := by
  induction n generalizing a with
  | zero => simp [memRead]
  | succ n ih =>
    rw [show n + 1 + k = (n + k) + 1 by omega, memRead, memRead, ih, List.cons_append,
      show a + 1 + n = a + (n + 1) by omega]

theorem memRead_drop (m : List Host.Cell) (a : Nat) {n k : Nat} (h : k ≤ n) :
    (memRead m a n).drop k = memRead m (a + k) (n - k) := by
  obtain ⟨r, rfl⟩ := Nat.exists_eq_add_of_le h
  rw [memRead_add, List.drop_left' (memRead_length m a k)]
  simp

theorem memRead_take (m : List Host.Cell) (a : Nat) {n k : Nat} (h : k ≤ n) :
    (memRead m a n).take k = memRead m a k := by
  obtain ⟨r, rfl⟩ := Nat.exists_eq_add_of_le h
  rw [memRead_add, List.take_left' (memRead_length m a k)]

theorem memRead_getElem? (m : List Host.Cell) (a : Nat) {n j : Nat} (h : j < n) :
    (memRead m a n)[j]? = some (Memory.read m (a + j)) := by
  induction n generalizing a j with
  | zero => omega
  | succ n ih =>
    cases j with
    | zero => rfl
    | succ j =>
      rw [memRead, List.getElem?_cons_succ, ih (a + 1) (by omega), show a + 1 + j = a + (j + 1) by omega]

/-- MemRead looks at the bytes of its range only. -/
theorem memRead_congr {m m' : List Host.Cell} {a a' n : Nat}
    (h : ∀ j, j < n → Memory.read m (a + j) = Memory.read m' (a' + j)) : memRead m a n = memRead m' a' n := by
  induction n generalizing a a' with
  | zero => rfl
  | succ n ih =>
    have hrest : memRead m (a + 1) n = memRead m' (a' + 1) n := ih fun j hj => by
      have hj' := h (j + 1) (by omega)
      rwa [show a + (j + 1) = a + 1 + j by omega, show a' + (j + 1) = a' + 1 + j by omega] at hj'
    rw [memRead, memRead, hrest, show Memory.read m a = Memory.read m' a' by simpa using h 0 (by omega)]

@[simp] theorem blockAt_length (m : List Host.Cell) (p : Nat) : (blockAt m p).length = 64 := memRead_length m p 64

end Sys2Proof.Machine
end

