-- ==== Sys2Proof/Laws/Ops.lean ====
section
/-! SUPPORT. What the shared operations can do: raising an error, the two checks, the effects on a fresh instance, and the
outcomes of one host action. -/

namespace Sys2Proof.Machine

theorem withRange_of_le {n : Nat} {s : State} (h : s.src.toNat + n ≤ s.memSize) (effect : State → State) :
    withRange n s effect = effect s := if_pos h

theorem withRange_of_lt {n : Nat} {s : State} (h : s.memSize < s.src.toNat + n) (effect : State → State) :
    withRange n s effect = raise .resource s := if_neg (by omega)

/-- The range check either lets the effect happen or raises E_RESOURCE (R62). -/
theorem withRange_cases (n : Nat) (s : State) (effect : State → State) :
    (s.src.toNat + n ≤ s.memSize ∧ withRange n s effect = effect s) ∨
      (s.memSize < s.src.toNat + n ∧ withRange n s effect = raise .resource s) := by
  by_cases h : s.src.toNat + n ≤ s.memSize
  · exact .inl ⟨h, withRange_of_le h effect⟩
  · exact .inr ⟨by omega, withRange_of_lt (by omega) effect⟩

theorem withFresh_of_fresh {s : State} (h : s.status.fresh = true) (effect : State → State) :
    withFresh s effect = effect s := if_pos h

theorem withFresh_of_not_fresh {s : State} (h : s.status.fresh = false) (effect : State → State) :
    withFresh s effect = raise .state s := by simp [withFresh, h]

/-- The state check either lets the effect happen or raises E_STATE (R275). -/
theorem withFresh_cases (s : State) (effect : State → State) :
    (s.status.fresh = true ∧ withFresh s effect = effect s) ∨
      (s.status.fresh = false ∧ withFresh s effect = raise .state s) := by
  cases h : s.status.fresh
  · exact .inr ⟨rfl, withFresh_of_not_fresh h effect⟩
  · exact .inl ⟨rfl, withFresh_of_fresh h effect⟩

/-- The three outcomes of a write to CMD (R92): the ERR gate, E_ILLEGAL, or the decoded command. -/
theorem writeCmd_cases (w : Word) (s : State) :
    (s.status.err = true ∧ w ≠ encode .init ∧ writeCmd w s = .next s) ∨
      ((s.status.err = false ∨ w = encode .init) ∧ (∃ e, decode w = .error e) ∧
        writeCmd w s = .next (raise .illegal s)) ∨
      ((s.status.err = false ∨ w = encode .init) ∧ ∃ i, decode w = .ok i ∧ writeCmd w s = exec i s) := by
  by_cases hg : s.status.err = true ∧ w ≠ encode .init
  · exact .inl ⟨hg.1, hg.2, by simp [writeCmd, hg]⟩
  · have hg' : s.status.err = false ∨ w = encode .init := by
      by_cases hw : w = encode .init
      · exact .inr hw
      · exact .inl (by simpa [hw] using hg)
    refine .inr ?_
    unfold writeCmd
    rw [if_neg hg]
    cases decode w with
    | error e => exact .inl ⟨hg', ⟨e, rfl⟩, rfl⟩
    | ok i => exact .inr ⟨hg', i, rfl, rfl⟩

end Sys2Proof.Machine
end

