-- ==== Sys2Proof/Laws/Exec.lean ====
section
/-! SUPPORT. Each meaning by its cases: the next state where the checks pass, and the error where one fails. -/

namespace Sys2Proof.Machine

variable {s : State}

/-! ### The shared bodies of the commands on H -/

theorem transformH_ok {xf : Quad → List Byte → Quad} (h : s.src.toNat + 64 ≤ s.memSize) :
    transformH xf s = writeH (xf s.h (blockAt s.mem (srcAddr s))) s := withRange_of_le h _

theorem transformH_range {xf : Quad → List Byte → Quad} (h : s.memSize < s.src.toNat + 64) :
    transformH xf s = raise .resource s := withRange_of_lt h _

theorem transformNH_ok {xf : Quad → List Byte → Quad} (h : s.src.toNat + 64 * s.nblk.toNat ≤ s.memSize) :
    transformNH xf s = writeH (chainBlocks xf s.mem (srcAddr s) (blockCount s) s.h) s :=
  withRange_of_le h _

theorem transformNH_range {xf : Quad → List Byte → Quad} (h : s.memSize < s.src.toNat + 64 * s.nblk.toNat) :
    transformNH xf s = raise .resource s := withRange_of_lt h _

theorem digestH_ok {xf : Quad → List Byte → Quad} (hf : s.status.fresh = true)
    (h : s.src.toNat + s.len.toNat ≤ s.memSize) :
    digestH xf s = finishDigest (digestProcedure xf s.mem (srcAddr s) (lenBytes s) s.h) s :=
  (withFresh_of_fresh hf _).trans (withRange_of_le h _)

theorem digestH_range {xf : Quad → List Byte → Quad} (hf : s.status.fresh = true)
    (h : s.memSize < s.src.toNat + s.len.toNat) : digestH xf s = raise .resource s :=
  (withFresh_of_fresh hf _).trans (withRange_of_lt h _)

theorem digestH_state {xf : Quad → List Byte → Quad} (hf : s.status.fresh = false) :
    digestH xf s = raise .state s := withFresh_of_not_fresh hf _

/-! ### The stream bank -/

theorem execXfrmB_ok (h : s.src.toNat + 512 ≤ s.memSize) :
    execXfrmB s = .next (s.setHs (batch8 s.mem s.hs (srcAddr s))) := congrArg _ (withRange_of_le h _)

theorem execXfrmB_range (h : s.memSize < s.src.toNat + 512) : execXfrmB s = .next (raise .resource s) :=
  congrArg _ (withRange_of_lt h _)

theorem execXfrmnB_ok (h : s.src.toNat + 64 * s.nblk.toNat ≤ s.memSize) :
    execXfrmnB s = .next (s.setHs (runBatched s.mem (srcAddr s) (blockCount s) s.hs)) :=
  congrArg _ (withRange_of_le h _)

theorem execXfrmnB_range (h : s.memSize < s.src.toNat + 64 * s.nblk.toNat) :
    execXfrmnB s = .next (raise .resource s) := congrArg _ (withRange_of_lt h _)

/-! ### What a command can do, all commands at once -/

/-- The state a command leaves when its checks pass. -/
def effect (i : Instr) (s : State) : State :=
  match i with
  | .init => freshInstance s
  | .xfrmS => writeH (compress s.h (blockAt s.mem (srcAddr s))) s
  | .xfrmV => writeH (compressV s.h (blockAt s.mem (srcAddr s))) s
  | .xfrmB => s.setHs (batch8 s.mem s.hs (srcAddr s))
  | .xfrmnS => writeH (chainBlocks compress s.mem (srcAddr s) (blockCount s) s.h) s
  | .xfrmnV => writeH (chainBlocks compressV s.mem (srcAddr s) (blockCount s) s.h) s
  | .xfrmnB => s.setHs (runBatched s.mem (srcAddr s) (blockCount s) s.hs)
  | .digestS => finishDigest (digestProcedure compress s.mem (srcAddr s) (lenBytes s) s.h) s
  | .digestV => finishDigest (digestProcedure compressV s.mem (srcAddr s) (lenBytes s) s.h) s
  | .digestB => finishDigest (digestProcedure compress s.mem (srcAddr s) (lenBytes s) s.h) s
  | .getHash => s.setOut (digestBytes s.h)
  | .getHex => s.setHex (hexString (digestBytes s.h))

/-- A command either raises E_STATE, or E_RESOURCE, or has its effect (R277, steps 3 to 5). -/
theorem exec_cases (i : Instr) (s : State) :
    (isDigest i = true ∧ s.status.fresh = false ∧ exec i s = .next (raise .state s)) ∨
    ((isDigest i = true → s.status.fresh = true) ∧ ¬ inRange s i ∧ exec i s = .next (raise .resource s)) ∨
    ((isDigest i = true → s.status.fresh = true) ∧ inRange s i ∧ exec i s = .next (effect i s)) := by
  have range : ∀ n, bytesRead s i = some n → (inRange s i ↔ s.src.toNat + n ≤ s.memSize) := by
    intro n hn
    exact ⟨fun h => h n hn, fun h k hk => by rw [hn] at hk; cases hk; exact h⟩
  have plain : ∀ n, bytesRead s i = some n → isDigest i = false →
      exec i s = .next (withRange n s (effect i)) →
      ((isDigest i = true → s.status.fresh = true) ∧ ¬ inRange s i ∧ exec i s = .next (raise .resource s)) ∨
      ((isDigest i = true → s.status.fresh = true) ∧ inRange s i ∧ exec i s = .next (effect i s)) := by
    intro n hn hd he
    rw [he, range n hn]
    rcases withRange_cases n s (effect i) with ⟨h, e⟩ | ⟨h, e⟩
    · exact .inr ⟨by simp [hd], h, by rw [e]⟩
    · exact .inl ⟨by simp [hd], by omega, by rw [e]⟩
  have digest : isDigest i = true → bytesRead s i = some s.len.toNat →
      exec i s = .next (withFresh s fun s => withRange (lenBytes s) s (effect i)) →
      (isDigest i = true ∧ s.status.fresh = false ∧ exec i s = .next (raise .state s)) ∨
      ((isDigest i = true → s.status.fresh = true) ∧ ¬ inRange s i ∧ exec i s = .next (raise .resource s)) ∨
      ((isDigest i = true → s.status.fresh = true) ∧ inRange s i ∧ exec i s = .next (effect i s)) := by
    intro hd hn he
    rw [he, range _ hn]
    rcases withFresh_cases s (fun s => withRange (lenBytes s) s (effect i)) with ⟨hf, e⟩ | ⟨hf, e⟩
    · rw [e]
      rcases withRange_cases (lenBytes s) s (effect i) with ⟨h, e⟩ | ⟨h, e⟩
      · exact .inr (.inr ⟨fun _ => hf, h, by rw [e]⟩)
      · exact .inr (.inl ⟨fun _ => hf, Nat.not_le.2 h, by rw [e]⟩)
    · exact .inl ⟨hd, hf, by rw [e]⟩
  have free : bytesRead s i = none → isDigest i = false → exec i s = .next (effect i s) →
      ((isDigest i = true → s.status.fresh = true) ∧ inRange s i ∧ exec i s = .next (effect i s)) := by
    intro hn hd he
    exact ⟨by simp [hd], fun n h => by simp [hn] at h, he⟩
  cases i
  case init => exact .inr (.inr (free rfl rfl rfl))
  case getHash => exact .inr (.inr (free rfl rfl rfl))
  case getHex => exact .inr (.inr (free rfl rfl rfl))
  case digestS => exact digest rfl rfl rfl
  case digestV => exact digest rfl rfl rfl
  case digestB => exact digest rfl rfl rfl
  all_goals exact .inr (plain _ rfl rfl rfl)

end Sys2Proof.Machine
end

