-- ==== Sys2Proof/Laws/Regs.lean ====
section
/-! SUPPORT. Reading and writing one word of a state and one stream of the bank, and the register numbers of R44. -/

namespace Sys2Proof.Machine

@[simp] theorem Quad.get_set_same (q : Quad) (k : Fin 4) (v : Word) : (q.set k v).get k = v := by
  fin_cases k <;> rfl

theorem Quad.get_set_ne (q : Quad) {k j : Fin 4} (h : j ≠ k) (v : Word) : (q.set k v).get j = q.get j := by
  fin_cases k <;> fin_cases j <;> first | rfl | exact absurd rfl h

theorem Quad.ext_get {p q : Quad} (h : ∀ k, p.get k = q.get k) : p = q := by
  cases p; cases q
  simpa only [Quad.get, Quad.mk.injEq] using ⟨h 0, h 1, h 2, h 3⟩

@[simp] theorem Bank.get_set_same (b : Bank) (s : Fin 8) (q : Quad) : (b.set s q).get s = q := by
  fin_cases s <;> rfl

theorem Bank.get_set_ne (b : Bank) {s t : Fin 8} (h : t ≠ s) (q : Quad) : (b.set s q).get t = b.get t := by
  fin_cases s <;> fin_cases t <;> first | rfl | exact absurd rfl h

theorem Bank.get_set (b : Bank) (s t : Fin 8) (q : Quad) :
    (b.set s q).get t = if t = s then q else b.get t := by
  split
  · subst t; simp
  · exact Bank.get_set_ne b ‹_› q

@[simp] theorem Bank.get_ofFn (f : Fin 8 → Quad) (s : Fin 8) : (Bank.ofFn f).get s = f s := by
  fin_cases s <;> rfl

theorem Bank.ext_get {b c : Bank} (h : ∀ s, b.get s = c.get s) : b = c := by
  cases b; cases c
  simpa only [Bank.get, Bank.mk.injEq] using ⟨h 0, h 1, h 2, h 3, h 4, h 5, h 6, h 7⟩

@[simp] theorem Bank.ofFn_get (b : Bank) : Bank.ofFn b.get = b := Bank.ext_get fun s => by simp

@[simp] theorem Reg.ofNumber_number (r : Reg) : Reg.ofNumber r.number = r := by
  cases r with
  | h k => fin_cases k <;> rfl
  | hs s k => fin_cases s <;> fin_cases k <;> rfl
  | out n => fin_cases n <;> rfl
  | hex n => fin_cases n <;> rfl
  | _ => rfl

/-- The numbers of R44 that reach no register. -/
theorem Reg.ofNumber_eq_unassigned_iff (n : Nat) :
    Reg.ofNumber n = .unassigned ↔
      (5 ≤ n ∧ n ≤ 7) ∨ (12 ≤ n ∧ n ≤ 15) ∨ (52 ≤ n ∧ n ≤ 55) ∨ 64 ≤ n := by
  unfold Reg.ofNumber
  split_ifs <;> simp <;> omega

/-- A number that reaches a register is that register's number. -/
theorem Reg.number_ofNumber {n : Nat} (h : Reg.ofNumber n ≠ .unassigned) : (Reg.ofNumber n).number = n := by
  unfold Reg.ofNumber at h ⊢
  split_ifs at h ⊢ <;> simp_all [Reg.number, Fin.ofNat] <;> omega

end Sys2Proof.Machine
end

