-- ==== Sys2Proof/Laws/Host.lean ====
section
/-! SUPPORT. What one action of the host can do, running a list of actions, and a run of the machine. -/

namespace Sys2Proof.Machine

/-- A 32-bit value fits every register. -/
@[simp] theorem HostAction.valueFits_word (n : Nat) (w : Word) : HostAction.valueFits n (w.setWidth 64) = true := by
  have := w.isLt
  simp only [HostAction.valueFits, Bool.or_eq_true, decide_eq_true_eq]
  right; simp; omega

/-- A host write of a word to CMD is `writeCmd` (R92). -/
theorem performAction_cmd (w : Word) (s : State) : performAction (.wr 0 (w.setWidth 64)) s = writeCmd w s := by
  simp only [performAction, writeReg, HostAction.valueFits_word, if_true]
  rw [show Reg.ofNumber 0 = .cmd from rfl]
  simp

/-- A host write to another register stores what `storeReg` says (R44). -/
theorem performAction_wr {n : Nat} {v : DWord} {s : State} (hf : HostAction.valueFits n v = true)
    (hr : Reg.ofNumber n ≠ .cmd) : performAction (.wr n v) s = .next (storeReg s v (Reg.ofNumber n)) := by
  simp only [performAction, writeReg, hf, if_true]

/-- Everything one action can do when it answers a next state. -/
theorem performAction_cases {a : HostAction} {s t : State} (h : performAction a s = .next t) :
    (a = .reset ∧ t = resetEngine s) ∨
    (∃ n, a = .rd n ∧ t = s.pushOutput (readReg s (Reg.ofNumber n))) ∨
    (∃ addr bytes, a = .memw addr bytes ∧ addr + bytes.length ≤ s.memSize ∧
      t = s.setMem (memWrite s.mem addr bytes)) ∨
    (∃ n v, a = .wr n v ∧ Reg.ofNumber n ≠ .cmd ∧ HostAction.valueFits n v = true ∧
      t = storeReg s v (Reg.ofNumber n)) ∨
    (∃ w : Word, a = .wr 0 (w.setWidth 64) ∧ writeCmd w s = .next t) := by
  cases a with
  | reset => cases h; exact .inl ⟨rfl, rfl⟩
  | rd n => cases h; exact .inr (.inl ⟨n, rfl, rfl⟩)
  | memw addr bytes =>
    simp only [performAction, HostAction.rangeFits, decide_eq_true_eq] at h
    split at h
    · cases h; exact .inr (.inr (.inl ⟨_, _, rfl, ‹_›, rfl⟩))
    · cases h
  | wr n v =>
    by_cases hf : HostAction.valueFits n v = true
    · by_cases hc : Reg.ofNumber n = .cmd
      · have hn : n = 0 := by
          have := Reg.number_ofNumber (n := n) (by rw [hc]; simp)
          rw [hc] at this
          exact this.symm
        subst hn
        have hv : v = (v.setWidth 32).setWidth 64 := by
          simp only [HostAction.valueFits, hc, Reg.takesWord, Bool.not_true, Bool.false_or, decide_eq_true_eq] at hf
          apply BitVec.eq_of_toNat_eq
          simp; omega
        rw [hv, performAction_cmd] at h
        exact .inr (.inr (.inr (.inr ⟨_, congrArg _ hv, h⟩)))
      · rw [performAction_wr hf hc] at h
        cases h
        exact .inr (.inr (.inr (.inl ⟨n, v, rfl, hc, hf, rfl⟩)))
    · simp only [performAction, writeReg, hf] at h
      simp at h

/-! ### Lists of actions and runs -/

theorem runActions_cons_next {a : HostAction} {rest : List HostAction} {s t : State}
    (h : performAction a s = .next t) : runActions (a :: rest) s = runActions rest t := by
  simp only [runActions, h]

theorem runActions_append_next {xs ys : List HostAction} {s t : State} (h : runActions xs s = .next t) :
    runActions (xs ++ ys) s = runActions ys t := by
  induction xs generalizing s with
  | nil => cases h; rfl
  | cons a xs ih =>
    cases ha : performAction a s with
    | next u =>
      rw [runActions_cons_next ha] at h
      rw [List.cons_append, runActions_cons_next ha, ih h]
    | fault r => simp [runActions, ha] at h
    | refused r => simp [runActions, ha] at h

/-- One more step of a run. -/
theorem run_succ (M : Host.Core) (n : Nat) {x y : M.State} (h : M.step x = .next y) : M.run (n + 1) x = M.run n y := by
  rw [Host.Core.run, h]

end Sys2Proof.Machine
end

