-- ==== Sys2Proof/Laws/PerInstr.lean ====
section
/-! SUPPORT. One fact about every command as syntax: it is well formed, its word has its OP and PATH fields and a ZERO
field of zeros, and the decoder reads it back (R91, R95). -/

namespace Sys2Proof.Laws.EncodedFields

/-- What is said of each command. -/
def Statement (i : Instr) : Prop :=
  i.wf = true ∧ opField (encode i) = i.op ∧ pathField (encode i) = i.path ∧ zeroField (encode i) = 0 ∧
    decode (encode i) = .ok i

theorem init : Statement .init := by unfold Statement; decide
theorem xfrmS : Statement .xfrmS := by unfold Statement; decide
theorem xfrmV : Statement .xfrmV := by unfold Statement; decide
theorem xfrmB : Statement .xfrmB := by unfold Statement; decide
theorem xfrmnS : Statement .xfrmnS := by unfold Statement; decide
theorem xfrmnV : Statement .xfrmnV := by unfold Statement; decide
theorem xfrmnB : Statement .xfrmnB := by unfold Statement; decide
theorem digestS : Statement .digestS := by unfold Statement; decide
theorem digestV : Statement .digestV := by unfold Statement; decide
theorem digestB : Statement .digestB := by unfold Statement; decide
theorem getHash : Statement .getHash := by unfold Statement; decide
theorem getHex : Statement .getHex := by unfold Statement; decide

end Sys2Proof.Laws.EncodedFields
end

