-- ==== Sys2Proof/Laws/Words.lean ====
section
/-! SUPPORT. Byte order: a little-endian natural stays in its range, and a word of a block read from MEM is the word at
that address. -/

namespace Sys2Proof.Machine

theorem leNat_append (xs ys : List Byte) : leNat (xs ++ ys) = leNat xs + 256 ^ xs.length * leNat ys := by
  induction xs with
  | nil => simp [leNat]
  | cons b xs ih => simp only [List.cons_append, leNat, List.length_cons, Nat.pow_succ, ih]; ring

/-- The n low bytes of a value, read back (R14, R64). -/
theorem leNat_leBytes {w : Nat} (n : Nat) (v : BitVec w) : leNat (leBytes n v) = v.toNat % 256 ^ n := by
  induction n with
  | zero => simp [leBytes, leNat, Nat.mod_one]
  | succ n ih =>
    unfold leBytes at ih ⊢
    rw [List.range_succ, List.map_append, leNat_append, ih]
    simp [leNat, Nat.shiftRight_eq_div_pow]
    rw [Nat.pow_succ, Nat.mod_mul, show 2 ^ (8 * n) = 256 ^ n by rw [Nat.pow_mul]]

theorem leNat_lt (bs : List Byte) : leNat bs < 256 ^ bs.length := by
  induction bs with
  | nil => simp [leNat]
  | cons b bs ih =>
    have hb : b.toNat < 256 := b.isLt
    simp only [leNat, List.length_cons, Nat.pow_succ]
    omega

/-- Word j of a block of MEM is the little-endian word at address p + 4*j (R63). -/
theorem wordAt_blockAt (m : List Host.Cell) (p : Nat) {j : Nat} (h : j < 16) :
    wordAt (blockAt m p) j = BitVec.ofNat 32 (memReadLE m (p + 4 * j) 4) := by
  unfold wordAt blockAt memReadLE Config.blockBytes
  rw [memRead_drop m p (by omega), memRead_take m _ (by omega)]

theorem words_getD (blk : List Byte) {j : Nat} (h : j < 16) : (words blk).getD j 0 = wordAt blk j := by
  simp [words, List.getD_eq_getElem?_getD, h]

theorem gIndex_lt (i : Nat) : gIndex i < 16 := (romG.getD i 0).isLt

@[simp] theorem leBytes_length {w : Nat} (n : Nat) (v : BitVec w) : (leBytes n v).length = n := by
  simp [leBytes]

/-- One more block of a chain (R166). -/
theorem chainBlocks_succ (xf : Quad → List Byte → Quad) (m : List Host.Cell) (p n : Nat) (h : Quad) :
    chainBlocks xf m p (n + 1) h = xf (chainBlocks xf m p n h) (blockAt m (p + 64 * n)) := by
  unfold chainBlocks
  rw [List.range_succ, List.foldl_append]
  rfl

end Sys2Proof.Machine
end

