-- ==== Sys2Proof/Laws/Vector.lean ====
section
/-! SUPPORT. What every vector micro-operation does to one lane (R132 to R139), and one round of units U2 and U3 lane by
lane (R182, R203). -/

namespace Sys2Proof.Machine

theorem getLsbD_lanesBelow (w : Nat) (f : Nat → Word) (k i : Nat) :
    (lanesBelow w f k).getLsbD i = (decide (i < w) && decide (i < 32 * k) && (f (i / 32)).getLsbD (i % 32)) := by
  induction k with
  | zero => simp [lanesBelow]
  | succ k ih =>
    rw [lanesBelow, BitVec.getLsbD_or, ih, BitVec.getLsbD_shiftLeft, BitVec.getLsbD_setWidth]
    by_cases hw : i < w
    · by_cases h1 : i < 32 * k
      · simp [hw, h1, show i < 32 * (k + 1) by omega]
      · by_cases h2 : i < 32 * (k + 1)
        · have e1 : i / 32 = k := by omega
          have e2 : i % 32 = i - 32 * k := by omega
          simp [hw, h1, h2, e1, e2, show i - 32 * k < w by omega]
        · simp only [hw, h1, h2, decide_true, decide_false, Bool.true_and, Bool.false_and, Bool.false_or,
            Bool.not_false, Bool.and_true, Bool.and_false]
          rw [BitVec.getLsbD_of_ge _ _ (by omega)]
          simp
    · simp [hw]

/-- Lane j of a register made of lanes. -/
@[simp] theorem lane_ofLanes {n : Nat} (f : Nat → Word) {j : Nat} (h : j < n) : lane (ofLanes n f) j = f j := by
  apply BitVec.eq_of_getLsbD_eq
  intro i hi
  rw [lane, BitVec.getLsbD_extractLsb', ofLanes, getLsbD_lanesBelow]
  have e1 : (32 * j + i) / 32 = j := by omega
  have e2 : (32 * j + i) % 32 = i := by omega
  simp [hi, e1, e2, show 32 * j + i < 32 * n by omega]

/-- Two registers with the same lanes are equal. -/
theorem VReg.ext_lane {n : Nat} {x y : VReg n} (h : ∀ j, j < n → lane x j = lane y j) : x = y := by
  apply BitVec.eq_of_getLsbD_eq
  intro i hi
  have hl := congrArg (fun w => w.getLsbD (i % 32)) (h (i / 32) (by omega))
  simp only [lane, BitVec.getLsbD_extractLsb', show i % 32 < 32 by omega, decide_true, Bool.true_and] at hl
  rwa [show 32 * (i / 32) + i % 32 = i by omega] at hl

section Lanes
variable {n : Nat} (x y : VReg n) {j : Nat} (h : j < n)
include h

@[simp] theorem lane_vadd : lane (vadd x y) j = add32 (lane x j) (lane y j) := lane_ofLanes _ h
@[simp] theorem lane_vand : lane (vand x y) j = lane x j &&& lane y j := lane_ofLanes _ h
@[simp] theorem lane_vor : lane (vor x y) j = lane x j ||| lane y j := lane_ofLanes _ h
@[simp] theorem lane_vxor : lane (vxor x y) j = lane x j ^^^ lane y j := lane_ofLanes _ h
@[simp] theorem lane_vnot : lane (vnot x) j = ~~~(lane x j) := lane_ofLanes _ h
@[simp] theorem lane_vandn : lane (vandn x y) j = ~~~(lane x j) &&& lane y j := lane_ofLanes _ h
@[simp] theorem lane_vrotl (a : Nat) : lane (vrotl x a) j = rotl32 (lane x j) a := lane_ofLanes _ h
@[simp] theorem lane_vbcast (w : Word) : lane (vbcast n w) j = w := lane_ofLanes _ h

/-- VFF is the nonlinear function in every lane (R134). -/
@[simp] theorem lane_vff (q : Nat) (b c d : VReg n) :
    lane (vff q b c d) j = ff q (lane b j) (lane c j) (lane d j) := by
  unfold vff ff
  split <;> simp [h]

end Lanes

/-- VGATHER gives lane s the word g(i) of block s (R80, R137). -/
@[simp] theorem lane_vgather (m : List Host.Cell) (p i : Nat) {s : Nat} (h : s < 8) :
    lane (vgather m p i) s = (words (blockAt m (p + 64 * s))).getD (gIndex i) 0 := by
  rw [vgather, lane_ofLanes _ h, words_getD _ (gIndex_lt i), wordAt_blockAt _ _ (gIndex_lt i)]

@[simp] theorem lane_vpack4 (q : Quad) (k : Fin 4) : lane (vpack4 q) k.val = q.get k := by
  rw [vpack4, lane_ofLanes _ k.isLt]
  congr 1
  exact Fin.ext (Nat.mod_eq_of_lt k.isLt)

@[simp] theorem vunpack4_vpack4 (q : Quad) : vunpack4 (vpack4 q) = q := by
  have h := lane_vpack4 q
  exact Quad.ext_get fun k => by fin_cases k <;> [exact h 0; exact h 1; exact h 2; exact h 3]

/-- The state in lane s of packed streams (R202). -/
@[simp] theorem stream_vpack8 (hs : Bank) (s : Fin 8) : (vpack8 hs).stream s.val = hs.get s := by
  simp [Planes.stream, vpack8]

/-- One round of U2 is one round of U1 on the unpacked words (R182). -/
theorem vunpack4_roundV (i : Nat) (x : List Word) (vs : VReg 4) :
    vunpack4 (roundV i x vs) = round i x (vunpack4 vs) := by
  have hk : 4 * (i / 4) + i % 4 = i := by omega
  have hx : 4 * (gIndex i / 4) + gIndex i % 4 = gIndex i := by omega
  unfold roundV vperm
  rw [vunpack4_vpack4]
  simp only [round, vunpack4, vk4, vx4]
  rw [lane_ofLanes _ (by omega), lane_ofLanes _ (by omega), hk, hx]

/-- One round of a batch is, in every lane, one round of U1 on that stream's own block (R203). -/
theorem stream_batchRound (m : List Host.Cell) (p i : Nat) (v : Planes) {s : Nat} (h : s < 8) :
    (batchRound m p i v).stream s = round i (words (blockAt m (p + 64 * s))) (v.stream s) := by
  simp [batchRound, Planes.stream, round, h]

end Sys2Proof.Machine
end

