-- ==== Sys2Proof/Tests/Slice0.lean ====
section
/-! SUPPORT. Own tests, each expected value written out from spec/ (the section stands beside it), and for every statement
with hypotheses a concrete witness that meets them all. -/

namespace Sys2Proof.Tests

open Sys2Proof.Machine

/-! ### Helpers -/

/-- Whether an outcome is a next state. -/
def isNext : Result → Bool
  | .next _ => true
  | .fault _ => false
  | .refused _ => false

/-- The next state of an outcome; the state after reset where there is none. -/
def ofNext : Result → State
  | .next s => s
  | .fault _ => State.reset
  | .refused _ => State.reset

theorem next_ofNext {r : Result} (h : isNext r = true) : r = .next (ofNext r) := by
  cases r <;> first | rfl | cases h

/-- Whether the decoder reads a command from the word. -/
def isCommand (w : Word) : Bool :=
  match decode w with
  | .ok _ => true
  | .error _ => false

/-- The pattern PAT of 95_test_vectors.md on the addresses below n: MEM[a] = a mod 251. -/
def pat (n : Nat) : List Host.Cell :=
  ((List.range n).filter fun a => a % 251 != 0).map fun a => (a, BitVec.ofNat 8 (a % 251))

/-- The state after reset with MEM = PAT below n and these operands. -/
def onPat (n : Nat) (src len nblk : DWord) : State :=
  { State.reset with mem := pat n, src := src, len := len, nblk := nblk }

/-- Below n the pattern reads as PAT. -/
theorem read_pat {n a : Nat} (h : a < n) : Memory.read (pat n) a = BitVec.ofNat 8 (a % 251) := by
  have key : ∀ l : List Nat, Memory.read ((l.filter fun a => a % 251 != 0).map fun a => (a, BitVec.ofNat 8 (a % 251))) a =
      if a ∈ l then BitVec.ofNat 8 (a % 251) else 0 := by
    intro l
    induction l with
    | nil => rfl
    | cons b l ih =>
      by_cases hb : b % 251 = 0
      · have e : (b % 251 != 0) = false := by simp [hb]
        rw [List.filter_cons, e]
        simp only [Bool.false_eq_true, if_false, ih, List.mem_cons]
        by_cases hab : a = b
        · subst hab; simp [hb]
        · simp [hab]
      · have e : (b % 251 != 0) = true := by simp [hb]
        rw [List.filter_cons, e]
        simp only [if_true, List.map_cons, Memory.read, ih, List.mem_cons]
        by_cases hab : a = b
        · subst hab; simp
        · simp [hab]
  rw [pat, key, if_pos (List.mem_range.2 h)]

theorem read_onPat {n a : Nat} {src len nblk : DWord} (h : a < n) :
    Memory.read (onPat n src len nblk).mem a = BitVec.ofNat 8 (a % 251) := read_pat h

/-- A state with the fresh flag cleared. -/
def stale (s : State) : State := s.setStatus s.status.clearFresh

/-- A state that has recorded E_ILLEGAL. -/
def errored : State := raise .illegal State.reset

/-- The padded frame of "abc" at address p, zeros elsewhere (95_test_vectors.md, KA2). -/
def abcFrame (p : Nat) : List Host.Cell :=
  [(p, 0x61), (p + 1, 0x62), (p + 2, 0x63), (p + 3, 0x80), (p + 56, 0x18)]

/-- A state with "abc" at address 0 and LEN = 3. -/
def abcState : State := { State.reset with mem := [(0, 0x61), (1, 0x62), (2, 0x63)], len := 3 }

/-! ### WellFormed: each check refuses an ill-formed term -/

theorem test_wf_value_refused : HostAction.wf 4096 (.wr 8 0x100000000) = false := by decide
theorem test_wf_value_accepted : HostAction.wf 4096 (.wr 8 0xFFFFFFFF) = true := by decide
theorem test_wf_range_refused : HostAction.wf 4096 (.memw 4095 [0x01, 0x02]) = false := by decide
theorem test_wf_range_accepted : HostAction.wf 4096 (.memw 4094 [0x01, 0x02]) = true := by decide

/-! ### Decoding: the words of R95, written bit by bit from R91 (ZERO, PATH, OP) -/

theorem test_decode_init : decode 0b00000000000000000000000000_00_0001 = .ok .init := by decide
theorem test_decode_xfrmS : decode 0b00000000000000000000000000_00_0010 = .ok .xfrmS := by decide
theorem test_decode_xfrmV : decode 0b00000000000000000000000000_01_0010 = .ok .xfrmV := by decide
theorem test_decode_xfrmB : decode 0b00000000000000000000000000_10_0010 = .ok .xfrmB := by decide
theorem test_decode_xfrmnS : decode 0b00000000000000000000000000_00_0011 = .ok .xfrmnS := by decide
theorem test_decode_xfrmnV : decode 0b00000000000000000000000000_01_0011 = .ok .xfrmnV := by decide
theorem test_decode_xfrmnB : decode 0b00000000000000000000000000_10_0011 = .ok .xfrmnB := by decide
theorem test_decode_digestS : decode 0b00000000000000000000000000_00_0100 = .ok .digestS := by decide
theorem test_decode_digestV : decode 0b00000000000000000000000000_01_0100 = .ok .digestV := by decide
theorem test_decode_digestB : decode 0b00000000000000000000000000_10_0100 = .ok .digestB := by decide
theorem test_decode_getHash : decode 0b00000000000000000000000000_00_0101 = .ok .getHash := by decide
theorem test_decode_getHex : decode 0b00000000000000000000000000_00_0110 = .ok .getHex := by decide

/-- R96: the reasons, by name. -/
theorem test_decode_refuses :
    decode 0x00000000 = .error .opUnassigned ∧ decode 0x00000007 = .error .opUnassigned ∧
    decode 0x00000032 = .error .pathUnassigned ∧ decode 0x00000031 = .error .pathUnassigned ∧
    decode 0x00000011 = .error .pathNotAllowed ∧ decode 0x00000015 = .error .pathNotAllowed ∧
    decode 0x00000042 = .error .zeroFieldSet ∧ decode 0x80000004 = .error .zeroFieldSet ∧
    decode 0xFFFFFFFF = .error .zeroFieldSet := by decide

/-- The decoder as the host asks it. -/
theorem test_decodeTableWord :
    decodeTableWord 32 0x24 = some .digestB ∧ decodeTableWord 32 0x34 = none ∧ decodeTableWord 8 0x24 = some .digestB ∧
    decodeTableWord 64 0x100000024 = none := by decide

/-- The placed word is fetched and run as the first command after reset. -/
theorem test_withFetchWord :
    (ofNext (step (State.reset.withFetchWord 32 0x05))).out =
      [0x01, 0x23, 0x45, 0x67, 0x89, 0xab, 0xcd, 0xef, 0xfe, 0xdc, 0xba, 0x98, 0x76, 0x54, 0x32, 0x10] ∧
    (ofNext (step (State.reset.withFetchWord 32 0x05))).pending = [] := by decide +kernel

/-! ### Primitives and rounds (95_test_vectors.md sections 3 to 6) -/

/-- Section 4.2. -/
theorem test_rotl32 : rotl32 0x12345678 22 = 0x9e048d15 ∧ rotl32 0x57ce06d8 7 = 0xe7036c2b := by decide

/-- Section 4.3, the last row. -/
theorem test_ff :
    ff 0 0x12345678 0x9abcdef0 0x0fedcba9 = 0x1ffddff1 ∧ ff 1 0x12345678 0x9abcdef0 0x0fedcba9 = 0x92345678 ∧
    ff 2 0x12345678 0x9abcdef0 0x0fedcba9 = 0x87654321 ∧ ff 3 0x12345678 0x9abcdef0 0x0fedcba9 = 0x688aa88e := by
  decide

/-- Section 4.4. -/
theorem test_rom :
    kConst 0 = 0xd76aa478 ∧ kConst 31 = 0x8d2a4c8a ∧ kConst 63 = 0xeb86d391 ∧
    romK.foldl (· + ·) 0 = 0x27f3a0bc ∧ romK.foldl (· ^^^ ·) 0 = 0x10e6cc5a ∧
    ((List.range 64).map sAmount).sum = 848 := by decide +kernel

/-- Section 3.1, round 0. -/
theorem test_round :
    round 0 [0x80636261] iv = ⟨0x10325476, 0xd6d117b4, 0xefcdab89, 0x98badcfe⟩ := by decide

/-- Section 4.5: an arbitrary incoming state, and all ones. -/
theorem test_compress :
    compress ⟨0x01234567, 0x89abcdef, 0xfedcba98, 0x76543210⟩ ((List.range 64).map (BitVec.ofNat 8)) =
      ⟨0x8490ffa8, 0x07293d80, 0xa1190bba, 0x537c31d9⟩ ∧
    compress ⟨0xffffffff, 0xffffffff, 0xffffffff, 0xffffffff⟩ (List.replicate 64 0xff) =
      ⟨0x6cba9129, 0x29ffd12a, 0x8b9bb7d3, 0xa9a0a3c1⟩ := by decide +kernel

/-- Section 6, the first batch: lane 7 of VB after round 0. -/
theorem test_batchRound :
    lane (batchRound (pat 512) 0 0 (vpack8 ivBank)).vb 7 = 0x090349d9 := by
  decide +kernel

/-- Section 5: the suffix beyond 2^32 bits. -/
theorem test_le64 : le64 (8 * (2 ^ 40 + 5)) = [0x28, 0x00, 0x00, 0x00, 0x00, 0x08, 0x00, 0x00] := by decide

/-! ### Commands (95_test_vectors.md sections 1, 6, 7, 8) -/

theorem test_init :
    (ofNext (exec .init { errored with h := ⟨1, 2, 3, 4⟩, src := 9 })).h = iv ∧
    (ofNext (exec .init { errored with h := ⟨1, 2, 3, 4⟩, src := 9 })).src = 9 ∧
    (ofNext (exec .init { errored with h := ⟨1, 2, 3, 4⟩, src := 9 })).status.toWord = 1 := by decide

/-- XFRM.S 5. -/
theorem test_xfrmS :
    (ofNext (exec .xfrmS (onPat 128 5 0 0))).h = ⟨0x783ae4a5, 0x98434b1b, 0xbbd2a9cc, 0x9195b3ee⟩ ∧
    (ofNext (exec .xfrmS (onPat 128 5 0 0))).status.toWord = 0 := by decide +kernel

/-- XFRM.V 64. -/
theorem test_xfrmV :
    (ofNext (exec .xfrmV (onPat 128 64 0 0))).h = ⟨0x9a12b0a4, 0xee7ce144, 0x234bb5c9, 0xd9aa5628⟩ := by
  decide +kernel

/-- XFRM.B 0 on blocks of zeros, the one of stream 5 the frame of "abc" (sections 1 and 4.5). -/
theorem test_xfrmB :
    (ofNext (exec .xfrmB { State.reset with mem := abcFrame 320 })).hs =
      { s0 := ⟨0x031f1dac, 0x6ea58ed0, 0x1fab67b7, 0x74317791⟩, s1 := ⟨0x031f1dac, 0x6ea58ed0, 0x1fab67b7, 0x74317791⟩,
        s2 := ⟨0x031f1dac, 0x6ea58ed0, 0x1fab67b7, 0x74317791⟩, s3 := ⟨0x031f1dac, 0x6ea58ed0, 0x1fab67b7, 0x74317791⟩,
        s4 := ⟨0x031f1dac, 0x6ea58ed0, 0x1fab67b7, 0x74317791⟩, s5 := ⟨0x98500190, 0xb04fd23c, 0x7d3f96d6, 0x727fe128⟩,
        s6 := ⟨0x031f1dac, 0x6ea58ed0, 0x1fab67b7, 0x74317791⟩,
        s7 := ⟨0x031f1dac, 0x6ea58ed0, 0x1fab67b7, 0x74317791⟩ } := by decide +kernel

/-- XFRMN.S 0, 2. -/
theorem test_xfrmnS :
    (ofNext (exec .xfrmnS (onPat 128 0 0 2))).h = ⟨0xb85e4fd4, 0xb03ccf42, 0xfc8d902d, 0x0e1b9628⟩ := by
  decide +kernel

/-- XFRMN.V 0, 0: H stays IV and FRESH is cleared. -/
theorem test_xfrmnV :
    (ofNext (exec .xfrmnV (onPat 0 0 0 0))).h = iv ∧ (ofNext (exec .xfrmnV (onPat 0 0 0 0))).status.toWord = 0 := by
  decide +kernel

/-- XFRMN.B 0, 7 on PAT: every remainder block is compressed (R307). -/
theorem test_xfrmnB :
    (ofNext (exec .xfrmnB (onPat 448 0 0 7))).hs.get 6 = ⟨0x923e6bc7, 0x403dc83e, 0x35acdf0f, 0x5d7f9d37⟩ := by
  decide +kernel

/-- XFRMN.B 0, 9: a batch and one remainder block, stream 0 chaining the two frames of 56 bytes 0x61 (section 2). -/
theorem test_xfrmnB_9 :
    (ofNext (exec .xfrmnB { State.reset with
      mem := ((List.range 56).map fun a => (a, 0x61)) ++ [(56, 0x80), (568, 0xc0), (569, 0x01)], nblk := 9 })).hs.get 0 =
      ⟨0xc78a0c3b, 0xb028f803, 0x70196c4c, 0x1872d106⟩ := by decide +kernel

/-- DIGEST.S 0, 56 on PAT: the two-frame arm. -/
theorem test_digestS :
    (ofNext (exec .digestS (onPat 64 0 56 0))).h = ⟨0xacd1fd51, 0x5d4072da, 0xfc03fafd, 0xd79658b8⟩ ∧
    (ofNext (exec .digestS (onPat 64 0 56 0))).status.toWord = 2 := by decide +kernel

/-- DIGEST.V 0, 65 on PAT: a full block, then one padding frame. -/
theorem test_digestV :
    (ofNext (exec .digestV (onPat 70 0 65 0))).h = ⟨0x3805d78b, 0x4268c701, 0x6f81af0f, 0x1c97baad⟩ := by decide +kernel

/-- DIGEST.B 4096, 0: the empty message at the end of MEM. -/
theorem test_digestB :
    (ofNext (exec .digestB (onPat 0 4096 0 0))).h = ⟨0xd98c1dd4, 0x04b2008f, 0x980980e9, 0x7e42f8ec⟩ := by
  decide +kernel

/-- GETHASH on the state of the empty message: OUT1. -/
theorem test_getHash :
    readReg (ofNext (exec .getHash { State.reset with h := ⟨0xd98c1dd4, 0x04b2008f, 0x980980e9, 0x7e42f8ec⟩ })) (.out 1) =
      0x04b2008f := by decide

/-- GETHEX on the state of the empty message: HEX1 and HEX7. -/
theorem test_getHex :
    readReg (ofNext (exec .getHex { State.reset with h := ⟨0xd98c1dd4, 0x04b2008f, 0x980980e9, 0x7e42f8ec⟩ })) (.hex 1) =
      0x39646338 ∧
    readReg (ofNext (exec .getHex { State.reset with h := ⟨0xd98c1dd4, 0x04b2008f, 0x980980e9, 0x7e42f8ec⟩ })) (.hex 7) =
      0x65373234 := by decide

/-! ### Errors (95_test_vectors.md section 9) -/

/-- E1, E8: an illegal word. -/
theorem test_illegal :
    (ofNext (performAction (.wr 0 0x00000000) State.reset)).status.toWord = 0x15 ∧
    (ofNext (performAction (.wr 0 0xFFFFFFFF) State.reset)).status.toWord = 0x15 := by decide +kernel

/-- E9, E11: a DIGEST on an instance that is not fresh, and H stays. -/
theorem test_state_error :
    (ofNext (exec .digestS (stale abcState))).status.toWord = 0x24 ∧ (ofNext (exec .digestS (stale abcState))).h = iv ∧
    (ofNext (exec .digestB { abcState with status := ⟨false, true, false, 0⟩ })).status.toWord = 0x26 := by decide +kernel

/-- The range check at its boundary, and beyond 2^64. -/
theorem test_range_error :
    (ofNext (exec .xfrmS (onPat 0 4033 0 0))).status.toWord = 0x35 ∧
    (ofNext (exec .xfrmV (onPat 0 0xFFFFFFFFFFFFFFFF 0 0))).status.toWord = 0x35 ∧
    (ofNext (exec .xfrmnB (onPat 0 0 0 0x0400000000000000))).status.toWord = 0x35 ∧
    (ofNext (exec .digestV (onPat 0 4096 1 0))).status.toWord = 0x35 := by decide +kernel

/-! ### Host actions -/

/-- Every range of the register map at its ends, on the state after reset. -/
theorem test_register_map :
    [0, 1, 2, 4, 5, 7, 8, 11, 12, 15, 16, 47, 48, 51, 52, 55, 56, 63, 64].map
        (fun n => readReg State.reset (Reg.ofNumber n)) =
      [0, 1, 0, 0, 0, 0, 0x67452301, 0x10325476, 0, 0, 0x67452301, 0x10325476, 0, 0, 0, 0, 0, 0, 0] ∧
    [4, 5, 7, 8, 11, 12, 15, 16, 47, 48, 51, 52, 55, 56, 63, 64].map Reg.ofNumber =
      [.nblk, .unassigned, .unassigned, .h 0, .h 3, .unassigned, .unassigned, .hs 0 0, .hs 7 3, .out 0, .out 3,
        .unassigned, .unassigned, .hex 0, .hex 7, .unassigned] := by decide

/-- A memory write at the end of MEM is read back, and the memory stays canonical. -/
theorem test_memw :
    let t := ofNext (performAction (.memw 4094 [0x00, 0xAB]) { State.reset with mem := [(4094, 0x11)] })
    t.mem = [(4095, 0xAB)] ∧ Memory.wf t.mem = true := by decide

/-- MEMS and MEMF. -/
theorem test_mems_memf :
    HostAction.mems 3 "abc" = .memw 3 [0x61, 0x62, 0x63] ∧ HostAction.memf 0 2 0xFF = .memw 0 [0xFF, 0xFF] := by
  decide +kernel

/-! ### Witnesses: for every statement with hypotheses, states and operands that meet them, clause by clause, at the
boundaries of their ranges -/

theorem witness_DecodeAnswersExactlyTheEncodedWord : Instr.wf .getHex = true ∧ decode 0x06 = .ok .getHex := by decide

theorem not_a_command {w : Word} (h : isCommand w = false) : ∀ i, w ≠ encode i := by
  rintro i rfl
  revert h
  cases i <;> decide

theorem witness_OtherWordsRaiseIllegal : (∀ i, (0x07 : Word) ≠ encode i) ∧ State.reset.status.err = false :=
  ⟨not_a_command (by decide), rfl⟩

/-- Both ways through the ERR gate. -/
theorem witness_StepRunsTheDecodedCommand :
    (∃ s : State, s.pending = .wr 0 ((0x02 : Word).setWidth 64) :: [] ∧ decode 0x02 = .ok .xfrmS ∧ s.status.err = false) ∧
    ∃ s : State, s.pending = .wr 0 ((0x01 : Word).setWidth 64) :: [] ∧ decode 0x01 = .ok .init ∧ s.status.err = true :=
  ⟨⟨{ State.reset with pending := [.wr 0 ((0x02 : Word).setWidth 64)] }, by decide, by decide, by decide⟩,
    { errored with pending := [.wr 0 ((0x01 : Word).setWidth 64)] }, by decide, by decide, by decide⟩

theorem witness_IdleStepHoldsTheState : State.reset.pending = [] := rfl

theorem inRange_of {s : State} {i : Instr} {n : Nat} (hb : bytesRead s i = some n) (h : s.src.toNat + n ≤ s.memSize) :
    inRange s i := by
  intro k hk
  rw [hb] at hk
  cases hk
  exact h

theorem not_inRange_of {s : State} {i : Instr} {n : Nat} (hb : bytesRead s i = some n)
    (h : s.memSize < s.src.toNat + n) : ¬ inRange s i := fun hr => absurd (hr n hb) (by omega)

/-- One witness a clause: the gate, E_ILLEGAL, E_STATE, E_RESOURCE at the first address past the end, execution at the
last one. -/
theorem witness_CommandWriteOutcomesInPriorityOrder :
    (errored.status.err = true ∧ (0x02 : Word) ≠ 0x01) ∧ (State.reset.status.err = false ∧ ∀ i, (0x07 : Word) ≠ encode i) ∧
    ((0x04 : Word) = encode .digestS ∧ isDigest .digestS = true ∧ (stale State.reset).status.fresh = false ∧
      (stale State.reset).status.err = false) ∧
    ((0x02 : Word) = encode .xfrmS ∧ isDigest .xfrmS = false ∧ ¬ inRange (onPat 0 4033 0 0) .xfrmS) ∧
    (0x02 : Word) = encode .xfrmS ∧ inRange (onPat 0 4032 0 0) .xfrmS :=
  ⟨by decide, ⟨rfl, not_a_command (by decide)⟩, by decide,
    ⟨by decide, by decide, not_inRange_of (n := 64) rfl (by decide)⟩, by decide, inRange_of (n := 64) rfl (by decide)⟩

theorem witness_ErroredEngineIsQuiescent :
    errored.status.err = true ∧ (0x02 : Word) ≠ 0x01 ∧
    (Reg.ofNumber 11 ≠ .cmd ∧ HostAction.valueFits 11 0xFFFFFFFF = true) ∧
    (performAction (.wr 47 5) errored = .next (ofNext (performAction (.wr 47 5) errored)) ∧
      (.wr 47 5 : HostAction) ≠ command .init ∧ (.wr 47 5 : HostAction) ≠ .reset) ∧
    performAction (command .init) errored = .next (ofNext (performAction (command .init) errored)) ∧
    performAction .reset errored = .next (ofNext (performAction .reset errored)) :=
  ⟨by decide, by decide, by decide, ⟨next_ofNext (by decide), by decide, by decide⟩, next_ofNext (by decide),
    next_ofNext (by decide)⟩

/-- The three causes. -/
theorem witness_RaisingChangesOnlyErrAndErrcode :
    ∀ c ∈ [((0x07 : Word), State.reset), (0x24, stale State.reset), (0x02, onPat 0 4033 0 0)],
      writeCmd c.1 c.2 = .next (ofNext (writeCmd c.1 c.2)) ∧ c.2.status.err = false ∧
      (ofNext (writeCmd c.1 c.2)).status.err = true := by
  have h : ∀ c ∈ [((0x07 : Word), State.reset), (0x24, stale State.reset), (0x02, onPat 0 4033 0 0)],
      isNext (writeCmd c.1 c.2) = true ∧ c.2.status.err = false ∧
      (ofNext (writeCmd c.1 c.2)).status.err = true := by decide +kernel
  exact fun c hc => ⟨next_ofNext (h c hc).1, (h c hc).2⟩

/-- The last address that passes, the first that fails, and a sum beyond 2^64. -/
theorem witness_RangeCheckOnUnboundedNaturals :
    (bytesRead (onPat 0 4033 0 0) .xfrmS = some 64 ∧ (onPat 0 4033 0 0).memSize < (onPat 0 4033 0 0).src.toNat + 64) ∧
    (bytesRead (onPat 0 4095 1 0) .digestS = some 1 ∧ (onPat 0 4095 1 0).status.fresh = true ∧
      (onPat 0 4095 1 0).src.toNat + 1 ≤ (onPat 0 4095 1 0).memSize) ∧
    (bytesRead (onPat 0 0xFFFFFFFFFFFFFFFF 1 0) .digestV = some 1 ∧
      (onPat 0 0xFFFFFFFFFFFFFFFF 1 0).memSize ≤ 2 ^ 61 - 1 ∧
      2 ^ 64 ≤ (onPat 0 0xFFFFFFFFFFFFFFFF 1 0).src.toNat + 1) := by decide

theorem witness_CommandsKeepOperandsAndMemory :
    exec .getHex abcState = .next (ofNext (exec .getHex abcState)) := next_ofNext (by decide)

/-- The ends of the ranges of HostReadsByNumber and HostWritesByNumber are read in `test_register_map`; these are the ends
of the values. -/
theorem witness_HostWritesByNumber :
    (0xFFFFFFFF : DWord).toNat < 2 ^ 32 ∧ 2 ^ 32 ≤ (0x100000000 : DWord).toNat ∧
    (∀ n ∈ [1, 5, 7, 12, 15, 48, 64], n = 1 ∨ (5 ≤ n ∧ n ≤ 7) ∨ (12 ≤ n ∧ n ≤ 15) ∨ 48 ≤ n) ∧
    ∀ n ∈ [0, 8, 11, 16, 47], n = 0 ∨ (8 ≤ n ∧ n < 12) ∨ (16 ≤ n ∧ n < 48) := by decide

theorem witness_RegisterReadAfterWrite :
    ∀ n ∈ [2, 4, 8, 11, 16, 47], ((2 ≤ n ∧ n ≤ 4) ∨ (8 ≤ n ∧ n < 12) ∨ (16 ≤ n ∧ n < 48)) ∧
      performAction (.wr n 0xFFFFFFFF) State.reset = .next (ofNext (performAction (.wr n 0xFFFFFFFF) State.reset)) := by
  have h : ∀ n ∈ [2, 4, 8, 11, 16, 47], ((2 ≤ n ∧ n ≤ 4) ∨ (8 ≤ n ∧ n < 12) ∨ (16 ≤ n ∧ n < 48)) ∧
      isNext (performAction (.wr n 0xFFFFFFFF) State.reset) = true := by decide
  exact fun n hn => ⟨(h n hn).1, next_ofNext (h n hn).2⟩

/-- FRESH: set, cleared by a host write, cleared by a command, kept by another action, and kept by a command that raises;
and the E_STATE clause. -/
theorem witness_FreshFlagLifecycle :
    performAction .reset errored = .next (ofNext (performAction .reset errored)) ∧
    performAction (.wr (8 + (3 : Fin 4).val) 7) State.reset =
      .next (ofNext (performAction (.wr (8 + (3 : Fin 4).val) 7) State.reset)) ∧
    (performAction (command .xfrmnV) State.reset = .next (ofNext (performAction (command .xfrmnV) State.reset)) ∧
      transformsH .xfrmnV = true ∧ State.reset.status.err = false ∧
      (ofNext (performAction (command .xfrmnV) State.reset)).status.err = false) ∧
    (performAction (.rd 8) State.reset = .next (ofNext (performAction (.rd 8) State.reset)) ∧
      (.rd 8 : HostAction) ≠ .reset ∧ (.rd 8 : HostAction) ≠ command .init ∧
      (∀ (k : Fin 4) v, (.rd 8 : HostAction) ≠ .wr (8 + k.val) v) ∧ ∀ i, (.rd 8 : HostAction) ≠ command i) ∧
    (State.reset.Inv ∧ (ofNext (performAction (.rd 8) State.reset)).status.fresh = true) ∧
    isDigest .digestV = true ∧ (stale State.reset).status.fresh = false := by
  refine ⟨next_ofNext (by decide), next_ofNext (by decide), ⟨next_ofNext (by decide +kernel), by decide, by decide, by decide +kernel⟩,
    ⟨next_ofNext (by decide), by decide, by decide, (fun k v h => by cases h), (fun i h => by cases h)⟩,
    ⟨?_, by decide⟩, by decide, by decide⟩
  exact ⟨fun _ => rfl, by decide, by decide, by decide, by decide, by decide, by decide⟩

/-- DONE: cleared, set by a digest, and kept by a host write. -/
theorem witness_DoneFlagLifecycle :
    performAction (command .init) errored = .next (ofNext (performAction (command .init) errored)) ∧
    (performAction (command .digestB) State.reset = .next (ofNext (performAction (command .digestB) State.reset)) ∧
      isDigest .digestB = true ∧ State.reset.status.err = false ∧
      (ofNext (performAction (command .digestB) State.reset)).status.err = false) ∧
    (performAction (.wr 2 7) State.reset = .next (ofNext (performAction (.wr 2 7) State.reset)) ∧
      (.wr 2 7 : HostAction) ≠ .reset ∧ (.wr 2 7 : HostAction) ≠ command .init ∧
      ∀ i, (.wr 2 7 : HostAction) ≠ command i) ∧
    exec .getHash State.reset = .next (ofNext (exec .getHash State.reset)) := by
  refine ⟨next_ofNext (by decide), ⟨next_ofNext (by decide +kernel), by decide, by decide, by decide +kernel⟩,
    ⟨next_ofNext (by decide), by decide, by decide, fun i h => ?_⟩, next_ofNext (by decide)⟩
  cases i <;> revert h <;> decide

theorem witness_OutAndHexAreSnapshots :
    (performAction (command .getHash) State.reset = .next (ofNext (performAction (command .getHash) State.reset)) ∧
      State.reset.status.err = false) ∧
    performAction (command .getHex) State.reset = .next (ofNext (performAction (command .getHex) State.reset)) ∧
    performAction .reset errored = .next (ofNext (performAction .reset errored)) ∧
    (performAction (.wr 8 7) State.reset = .next (ofNext (performAction (.wr 8 7) State.reset)) ∧
      (.wr 8 7 : HostAction) ≠ .reset ∧ (.wr 8 7 : HostAction) ≠ command .init ∧
      (.wr 8 7 : HostAction) ≠ command .getHash ∧ (.wr 8 7 : HostAction) ≠ command .getHex) := by
  exact ⟨⟨next_ofNext (by decide), rfl⟩, next_ofNext (by decide), next_ofNext (by decide), next_ofNext (by decide),
    by decide, by decide, by decide, by decide⟩

/-- A state of the invariant other than the reset state, and a step from it that does something. -/
theorem witness_StepKeepsTheInvariant :
    let s : State := { stale errored with mem := [(4095, 0xFF)], pending := [.memw 0 [1, 0, 2], command .init] }
    s.Inv ∧ step s = .next (ofNext (step s)) ∧ (ofNext (step s)).mem = [(0, 1), (2, 2), (4095, 0xFF)] := by
  refine ⟨⟨(fun h => by cases h), by decide, by decide, by decide, by decide, by decide, by decide⟩, next_ofNext (by decide),
    by decide⟩

/-- The ends of the list: STATUS = 0x01, 0x36. -/
theorem witness_StatusValuesThatCanOccur :
    State.reset.Inv ∧ State.Inv { State.reset with status := ⟨false, true, true, 3⟩ } :=
  ⟨⟨fun _ => rfl, by decide, by decide, by decide, by decide, by decide, by decide⟩,
    ⟨(fun h => by cases h), by decide, by decide, by decide, by decide, by decide, by decide⟩⟩

/-- The last byte of MEM, nothing at its end, and the first byte past it. -/
theorem witness_HostMemoryWriteStoresItsBytes :
    Memory.wf (pat 8) = true ∧ 4095 + [(0x01 : Byte)].length ≤ (onPat 8 0 0 0).memSize ∧
    4096 + ([] : List Byte).length ≤ (onPat 8 0 0 0).memSize ∧
    (onPat 8 0 0 0).memSize < 4096 + [(0x01 : Byte)].length := by decide

theorem witness_EqualContentsAreEqualMemories :
    Memory.wf (memWrite [] 0 [1, 2]) = true ∧ Memory.wf (memWrite (memWrite [] 1 [2]) 0 [1]) = true ∧
    ∀ a, Memory.read (memWrite [] 0 [1, 2]) a = Memory.read (memWrite (memWrite [] 1 [2]) 0 [1]) a :=
  ⟨by decide, by decide, fun _ => rfl⟩

/-- Two different memories that agree on the 64 bytes read. -/
theorem witness_BytesOutsideTheRangeDoNotMatter :
    (∀ n, bytesRead (onPat 65 1 0 0) .xfrmS = some n → ∀ j, j < n →
      Memory.read (pat 66) ((onPat 65 1 0 0).src.toNat + j) = Memory.read (onPat 65 1 0 0).mem ((onPat 65 1 0 0).src.toNat + j)) ∧
    pat 66 ≠ (onPat 65 1 0 0).mem ∧ exec .xfrmS (onPat 65 1 0 0) = .next (ofNext (exec .xfrmS (onPat 65 1 0 0))) := by
  refine ⟨fun n hn j hj => ?_, by decide +kernel, next_ofNext (by decide +kernel)⟩
  cases hn
  exact (read_pat (by simp [onPat]; omega)).trans (read_pat (by simp [onPat]; omega)).symm

/-- The ends of the rotation amounts, bit positions, quartiles and rounds. -/
theorem witness_RotationMovesEveryBit : rotl32 0x80000001 1 = 0x00000003 ∧ rotl32 0x80000001 31 = 0xC0000000 := by decide

theorem witness_MicroOperationsLaneByLane : lane (vadd (vpack4 iv) (vpack4 iv)) 3 = 0x2064a8ec := by decide

theorem witness_CompressRunsTheSixtyFourRounds : (List.replicate 64 (0xFF : Byte)).length = 64 := by decide

theorem witness_SingleStreamUnitComputesCompress : (blockAt (pat 128) 64).length = 64 := by decide

/-- Different lanes, banks, memories and addresses with equal states and blocks. -/
theorem witness_LanesAreIndependent :
    ivBank.get 5 = (ivBank.set 5 ⟨1, 2, 3, 4⟩).get 0 ∧
    ∀ j, j < 64 → Memory.read (abcFrame 320) (0 + 64 * (5 : Fin 8).val + j) =
      Memory.read (abcFrame 7) (7 + 64 * (0 : Fin 8).val + j) := by decide +kernel

/-- The last block of MEM, and one byte further. -/
theorem witness_XfrmCompressesOneBlockIntoH :
    (onPat 0 4032 0 0).src.toNat + 64 ≤ (onPat 0 4032 0 0).memSize ∧
    (onPat 0 4033 0 0).memSize < (onPat 0 4033 0 0).src.toNat + 64 := by decide

/-- No block at the end of MEM, one block too many, and the states of the two worked examples. -/
theorem witness_XfrmnChainsBlocksIntoH :
    (onPat 0 4096 0 0).src.toNat + 64 * (onPat 0 4096 0 0).nblk.toNat ≤ (onPat 0 4096 0 0).memSize ∧
    (onPat 0 0 0 65).memSize < (onPat 0 0 0 65).src.toNat + 64 * (onPat 0 0 0 65).nblk.toNat ∧
    (∀ p ∈ [((2 : DWord), 128), (8, 512)], (onPat p.2 0 0 p.1).h = iv ∧ (onPat p.2 0 0 p.1).src = 0 ∧
      (onPat p.2 0 0 p.1).nblk = p.1 ∧ p.2 ≤ (onPat p.2 0 0 p.1).memSize ∧
      ∀ n, n < p.2 → Memory.read (onPat p.2 0 0 p.1).mem n = BitVec.ofNat 8 (n % 251)) := by
  refine ⟨by decide, by decide, fun p hp => ?_⟩
  have h : ∀ p ∈ [((2 : DWord), 128), (8, 512)], p.2 ≤ 4096 := by decide
  exact ⟨rfl, rfl, rfl, h p hp, fun n hn => read_onPat hn⟩

theorem witness_XfrmnIsRepeatedXfrm :
    (onPat 0 0 0 2).memSize ≤ 2 ^ 61 - 1 ∧ (onPat 0 0 0 2).status.err = false ∧
    (onPat 0 0 0 2).src.toNat + 64 * (onPat 0 0 0 2).nblk.toNat ≤ (onPat 0 0 0 2).memSize ∧
    exec .xfrmnS (onPat 0 0 0 2) = .next (ofNext (exec .xfrmnS (onPat 0 0 0 2))) :=
  ⟨by decide, by decide, by decide, next_ofNext (by decide +kernel)⟩

theorem witness_XfrmBAdvancesEveryStream :
    (onPat 0 3584 0 0).src.toNat + 512 ≤ (onPat 0 3584 0 0).memSize ∧
    (onPat 0 3585 0 0).memSize < (onPat 0 3585 0 0).src.toNat + 512 ∧
    (onPat 512 0 0 0).hs = ivBank ∧ (onPat 512 0 0 0).src = 0 ∧ 512 ≤ (onPat 512 0 0 0).memSize ∧
    ∀ n, n < 512 → Memory.read (onPat 512 0 0 0).mem n = BitVec.ofNat 8 (n % 251) :=
  ⟨by decide, by decide, rfl, rfl, by decide, fun _ hn => read_onPat hn⟩

theorem witness_XfrmnBDealsBlocksToStreams :
    (onPat 0 0 0 64).src.toNat + 64 * (onPat 0 0 0 64).nblk.toNat ≤ (onPat 0 0 0 64).memSize ∧
    (onPat 0 1 0 64).memSize < (onPat 0 1 0 64).src.toNat + 64 * (onPat 0 1 0 64).nblk.toNat ∧
    (onPat 576 0 0 9).hs = ivBank ∧ (onPat 576 0 0 9).src = 0 ∧ (onPat 576 0 0 9).nblk = 9 ∧
    576 ≤ (onPat 576 0 0 9).memSize ∧
    ∀ n, n < 576 → Memory.read (onPat 576 0 0 9).mem n = BitVec.ofNat 8 (n % 251) :=
  ⟨by decide, by decide, rfl, rfl, rfl, by decide, fun _ hn => read_onPat hn⟩

theorem witness_BatchedPathMatchesScalarPerStream :
    (onPat 0 0 0 9).memSize ≤ 2 ^ 61 - 1 ∧ (onPat 0 0 0 9).status.err = false ∧
    (onPat 0 0 0 9).src.toNat + 64 * (onPat 0 0 0 9).nblk.toNat ≤ (onPat 0 0 0 9).memSize ∧
    exec .xfrmnB (onPat 0 0 0 9) = .next (ofNext (exec .xfrmnB (onPat 0 0 0 9))) :=
  ⟨by decide, by decide, by decide, next_ofNext (by decide +kernel)⟩

/-- Eight one-frame messages: seven empty ones and "abc" in stream 5. -/
theorem witness_EightMessagesInOneBatchedRun :
    let s : State := { State.reset with
      mem := [(0, 0x80), (64, 0x80), (128, 0x80), (192, 0x80), (256, 0x80)] ++ abcFrame 320 ++ [(384, 0x80), (448, 0x80)],
      nblk := 8 }
    let msgs : Fin 8 → List Byte := fun n => if n = 5 then [0x61, 0x62, 0x63] else []
    (∀ n, (frames (msgs n)).length = 1) ∧ s.nblk.toNat = 8 * 1 ∧ s.src.toNat + 64 * (8 * 1) ≤ s.memSize ∧
    ∀ (n : Fin 8) t, t < 1 → memRead s.mem (s.src.toNat + 64 * (8 * t + n.val)) 64 = (frames (msgs n)).getD t [] := by
  decide +kernel

theorem witness_PaddingShape :
    ([] : List Byte).length ≤ 2 ^ 61 - 1 ∧ (List.replicate 64 (0x61 : Byte)).length ≤ 2 ^ 61 - 1 ∧
    0 < (List.replicate 64 (0x61 : Byte)).length / 64 := by decide

/-- Both arms at their boundary, LEN mod 64 = 55 and 56. -/
theorem witness_ExtraFrameFromFiftySixOn :
    (List.replicate 55 (0x61 : Byte)).length % 64 ≤ 55 ∧ 56 ≤ (List.replicate 56 (0x61 : Byte)).length % 64 := by decide

theorem witness_LengthSuffixIsTheWholeBitLength :
    ([] : List Byte).length ≤ 2 ^ 61 - 1 ∧ ∃ msg : List Byte, msg.length = 2 ^ 29 :=
  ⟨by decide, List.replicate (2 ^ 29) 0x00, List.length_replicate⟩

/-- The whole of MEM, the state error, and one byte too many. -/
theorem witness_DigestComputesTheMd5State :
    (State.reset.status.fresh = true ∧ State.reset.h = iv) ∧
    ((onPat 0 0 4096 0).status.fresh = true ∧ (onPat 0 0 4096 0).src.toNat + (onPat 0 0 4096 0).len.toNat ≤ (onPat 0 0 4096 0).memSize) ∧
    (stale State.reset).status.fresh = false ∧
    ((onPat 0 0 4097 0).status.fresh = true ∧ (onPat 0 0 4097 0).memSize < (onPat 0 0 4097 0).src.toNat + (onPat 0 0 4097 0).len.toNat) := by
  decide

theorem witness_PathsAgreeFromEveryState :
    (blockAt [] 0).length = 64 ∧ Instr.digestB ∈ [Instr.digestS, Instr.digestV, Instr.digestB] ∧
    (onPat 0 1 4095 0).status.fresh = true ∧ (onPat 0 1 4095 0).status.err = false ∧ (onPat 0 1 4095 0).h = iv ∧
    (onPat 0 1 4095 0).src.toNat + (onPat 0 1 4095 0).len.toNat ≤ (onPat 0 1 4095 0).memSize := by decide

theorem witness_KnownAnswersOfTheSource :
    abcState.src.toNat + abcState.len.toNat ≤ abcState.memSize ∧
    memRead abcState.mem abcState.src.toNat abcState.len.toNat = "abc".toList.map (fun c => BitVec.ofNat 8 c.toNat) := by
  decide +kernel

theorem witness_GetHexRendersLowercaseHex :
    ∃ s : State, s.h = ⟨0xD98C1DD4, 0x04B2008F, 0x980980E9, 0x7E42F8EC⟩ :=
  ⟨{ State.reset with h := ⟨0xD98C1DD4, 0x04B2008F, 0x980980E9, 0x7E42F8EC⟩ }, rfl⟩

theorem witness_ProgramTakesOneStepPerAction :
    runActions (asmMd5 0 3) abcState = .next (ofNext (runActions (asmMd5 0 3) abcState)) ∧
    (asmMd5 0 3).length = 6 ∧ (ofNext (runActions (asmMd5 0 3) abcState)).status.toWord = 2 :=
  ⟨next_ofNext (by decide +kernel), by decide, by decide +kernel⟩

theorem witness_Md5ProgramDigestsTheMessage :
    (4096 : DWord).toNat + (0 : DWord).toNat ≤ errored.memSize ∧ errored.status.err = true := by decide

/-- The same message at two addresses, on two paths. -/
theorem witness_DigestDependsOnTheMessageOnly :
    let s2 : State := { errored with mem := [(9, 0x61), (10, 0x62), (11, 0x63)], src := 9, len := 3 }
    isDigest .digestS = true ∧ isDigest .digestB = true ∧
    abcState.src.toNat + abcState.len.toNat ≤ abcState.memSize ∧ s2.src.toNat + s2.len.toNat ≤ s2.memSize ∧
    memRead abcState.mem abcState.src.toNat abcState.len.toNat = memRead s2.mem s2.src.toNat s2.len.toNat := by decide

/-- DIGEST.S of "abc" after a host write, then GETHASH. -/
theorem witness_ProducedDigestIsMd5OfTheMessage :
    let actions := [.wr 4 1] ++ command .digestS :: [command .getHash]
    abcState.Inv ∧ ProducedDigest actions abcState (ofNext (runActions actions abcState)) [0x61, 0x62, 0x63] := by
  refine ⟨⟨fun _ => rfl, by decide, by decide, by decide, by decide, by decide, by decide⟩, [.wr 4 1], [command .getHash],
    .digestS, ofNext (runActions [.wr 4 1] abcState), rfl, rfl, next_ofNext (by decide), by decide, by decide,
    inRange_of (n := 3) rfl (by decide), by decide, ?_, by decide, by decide +kernel, by decide +kernel⟩
  exact next_ofNext (r := runActions (command .digestS :: [command .getHash]) _) (by decide +kernel)

end Sys2Proof.Tests
end

section
/-! SUPPORT. The decoder answers a command only for that command's own word (R95, R97). -/

namespace Sys2Proof

/-- A command word is its three fields put together (R91). -/
theorem word_eq_of_fields {w w' : Word} (hz : zeroField w = zeroField w') (hp : pathField w = pathField w')
    (ho : opField w = opField w') : w = w' := by
  have fields : ∀ u : Word, u.toNat = (zeroField u).toNat * 64 + (pathField u).toNat * 16 + (opField u).toNat := by
    intro u
    simp only [zeroField, pathField, opField, BitVec.extractLsb'_toNat, Nat.shiftRight_eq_div_pow]
    omega
  apply BitVec.eq_of_toNat_eq
  rw [fields w, fields w', hz, hp, ho]

theorem decodeSinglePath_eq_ok {p : Nat} {i j : Instr} (h : decodeSinglePath p i = .ok j) : p = 0 ∧ j = i := by
  unfold decodeSinglePath at h
  split at h <;> cases h
  exact ⟨rfl, rfl⟩

theorem decodePath_eq_ok {p : Nat} {iS iV iB j : Instr} (h : decodePath p iS iV iB = .ok j) :
    (p = 0 ∧ j = iS) ∨ (p = 1 ∧ j = iV) ∨ (p = 2 ∧ j = iB) := by
  unfold decodePath at h
  split at h <;> cases h <;> simp

/-- A decoded word has the command's fields (R91, R94, R95). -/
theorem fields_of_decode {w : Word} {i : Instr} (h : decode w = .ok i) :
    zeroField w = 0 ∧ pathField w = i.path ∧ opField w = i.op := by
  unfold decode at h
  split at h
  · cases h
  next hz =>
    refine ⟨not_not.1 hz, ?_⟩
    simp only [← BitVec.toNat_inj]
    split at h
    case h_7 => cases h
    case h_1 | h_5 | h_6 =>
      obtain ⟨hp, rfl⟩ := decodeSinglePath_eq_ok h
      exact ⟨hp, ‹_›⟩
    all_goals
      obtain ⟨hp, rfl⟩ | ⟨hp, rfl⟩ | ⟨hp, rfl⟩ := decodePath_eq_ok h <;> exact ⟨hp, ‹_›⟩

@[simp] theorem decode_encode (i : Instr) : decode (encode i) = .ok i := by
  cases i <;> rfl

theorem eq_encode_of_decode {w : Word} {i : Instr} (h : decode w = .ok i) : w = encode i := by
  obtain ⟨hz, hp, ho⟩ := fields_of_decode h
  obtain ⟨hz', hp', ho'⟩ := fields_of_decode (decode_encode i)
  exact word_eq_of_fields (hz.trans hz'.symm) (hp.trans hp'.symm) (ho.trans ho'.symm)

theorem encode_injective {i j : Instr} (h : encode i = encode j) : i = j := by
  have hd := decode_encode i
  rw [h, decode_encode] at hd
  cases hd
  rfl

end Sys2Proof
end

section
/-! SUPPORT. What a command does to STATUS and H: which checks decide, and the effect of each class of commands. -/

namespace Sys2Proof.Machine

variable {i : Instr} {s t : State}

/-! ### The three outcomes of a command, by the premise that decides -/

theorem exec_of_stale (hd : isDigest i = true) (hf : s.status.fresh = false) :
    exec i s = .next (raise .state s) := by
  obtain ⟨-, -, h⟩ | ⟨hf', -⟩ | ⟨hf', -⟩ := exec_cases i s
  · exact h
  · exact absurd (hf' hd) (by simp [hf])
  · exact absurd (hf' hd) (by simp [hf])

theorem exec_of_not_inRange (hf : isDigest i = true → s.status.fresh = true) (hr : ¬ inRange s i) :
    exec i s = .next (raise .resource s) := by
  obtain ⟨hd, hf', -⟩ | ⟨-, -, h⟩ | ⟨-, hr', -⟩ := exec_cases i s
  · exact absurd (hf hd) (by simp [hf'])
  · exact h
  · exact absurd hr' hr

theorem exec_of_inRange (hf : isDigest i = true → s.status.fresh = true) (hr : inRange s i) :
    exec i s = .next (effect i s) := by
  obtain ⟨hd, hf', -⟩ | ⟨-, hr', -⟩ | ⟨-, -, h⟩ := exec_cases i s
  · exact absurd (hf hd) (by simp [hf'])
  · exact absurd hr hr'
  · exact h

/-- A command raises an error or has its effect. -/
theorem exec_raises_or_effect (h : exec i s = .next t) : (∃ e, t = raise e s) ∨ t = effect i s := by
  obtain ⟨-, -, e⟩ | ⟨-, -, e⟩ | ⟨-, -, e⟩ := exec_cases i s <;> rw [e] at h <;> cases h
  · exact .inl ⟨_, rfl⟩
  · exact .inl ⟨_, rfl⟩
  · exact .inr rfl

/-- A command after which ERR is 0 has had its effect. -/
theorem eq_effect_of_exec (h : exec i s = .next t) (he : t.status.err = false) : t = effect i s := by
  obtain ⟨e, rfl⟩ | h := exec_raises_or_effect h
  · simp at he
  · exact h

/-! ### The effect on STATUS and H, by class of commands -/

theorem effect_status_of_transformsH (hi : transformsH i = true) (s : State) :
    (effect i s).status = s.status.clearFresh := by
  cases i
  case xfrmS | xfrmV | xfrmnS | xfrmnV => simp [effect]
  all_goals cases hi

theorem effect_status_of_isDigest (hi : isDigest i = true) (s : State) :
    (effect i s).status = s.status.digestDone := by
  cases i
  case digestS | digestV | digestB => simp [effect]
  all_goals cases hi

/-- The four classes of commands by what they do to STATUS and H (R35, R36, R48). -/
theorem effect_status_h_cases (i : Instr) (s : State) :
    (i = .init ∧ (effect i s).status = Status.atReset ∧ (effect i s).h = iv) ∨
    (transformsH i = true ∧ (effect i s).status = s.status.clearFresh) ∨
    (isDigest i = true ∧ (effect i s).status = s.status.digestDone) ∨
    ((effect i s).status = s.status ∧ (effect i s).h = s.h) := by
  cases i
  case init => exact .inl ⟨rfl, freshInstance_status s, freshInstance_h s⟩
  case xfrmS | xfrmV | xfrmnS | xfrmnV => exact .inr (.inl ⟨rfl, effect_status_of_transformsH rfl s⟩)
  case digestS | digestV | digestB => exact .inr (.inr (.inl ⟨rfl, effect_status_of_isDigest rfl s⟩))
  case xfrmB | xfrmnB | getHash | getHex => exact .inr (.inr (.inr (by simp [effect])))

/-! ### No command reads DONE (R36) -/

/-- The state with another value of DONE. -/
def State.withDone (s : State) (d : Bool) : State := { s with status := { s.status with done := d } }

theorem inRange_withDone (i : Instr) (s : State) (d : Bool) : inRange (s.withDone d) i ↔ inRange s i := by
  cases i <;> rfl

theorem effect_withDone (i : Instr) (s : State) (d : Bool) :
    ∃ d', effect i (s.withDone d) = (effect i s).withDone d' := by
  cases i
  case init => exact ⟨false, rfl⟩
  case digestS | digestV | digestB => exact ⟨true, by simp [effect, finishDigest_eq, State.withDone, srcAddr, lenBytes]⟩
  all_goals exact ⟨d, by simp [effect, writeH_eq, setHs_eq, setOut_eq, setHex_eq, State.withDone, srcAddr, blockCount]⟩

/-- Changing DONE before a command changes at most DONE after it. -/
theorem exec_withDone (h : exec i s = .next t) (d : Bool) :
    ∃ d', exec i (s.withDone d) = .next (t.withDone d') := by
  obtain ⟨hd, hf, e⟩ | ⟨hf, hr, e⟩ | ⟨hf, hr, e⟩ := exec_cases i s <;> rw [e] at h <;> cases h
  · exact ⟨d, exec_of_stale (s := s.withDone d) hd hf⟩
  · exact ⟨d, exec_of_not_inRange (s := s.withDone d) hf (mt (inRange_withDone i s d).1 hr)⟩
  · obtain ⟨d', e'⟩ := effect_withDone i s d
    exact ⟨d', e' ▸ exec_of_inRange (s := s.withDone d) hf ((inRange_withDone i s d).2 hr)⟩

end Sys2Proof.Machine
end

section
/-! SUPPORT. What one action of the host does to STATUS and H (R35, R36, R99). -/

namespace Sys2Proof.Machine

variable {i : Instr} {a : HostAction} {s t : State}

theorem performAction_reset (s : State) : performAction .reset s = .next (resetEngine s) := rfl

theorem performAction_command (i : Instr) (s : State) : performAction (command i) s = writeCmd (encode i) s :=
  performAction_cmd (encode i) s

/-- A command line executes its command where the ERR gate is open (R92). -/
theorem performAction_command_of_not_err (i : Instr) (hs : s.status.err = false) :
    performAction (command i) s = exec i s := by
  simp [performAction_command, writeCmd, hs]

/-- INIT passes the ERR gate (R273). -/
theorem performAction_command_init (s : State) : performAction (command .init) s = .next (freshInstance s) := by
  simp [performAction_command, writeCmd, exec, execInit]

/-- A command line that starts and ends with ERR = 0 has had its command's effect. -/
theorem eq_effect_of_performAction_command (h : performAction (command i) s = .next t)
    (hs : s.status.err = false) (ht : t.status.err = false) : t = effect i s :=
  eq_effect_of_exec (performAction_command_of_not_err i hs ▸ h) ht

/-- A store to a register other than H keeps STATUS and H; one to H clears FRESH (R35, R44). -/
theorem storeReg_status_h_cases (s : State) (v : DWord) (r : Reg) :
    (∃ k, r = .h k ∧ (storeReg s v r).status = s.status.clearFresh) ∨
    ((storeReg s v r).status = s.status ∧ (storeReg s v r).h = s.h) := by
  cases r
  case h k => exact .inl ⟨k, rfl, writeH_status s _⟩
  all_goals exact .inr (by simp [storeReg])

/-- The action is a host write to a word of H. -/
def HostAction.WritesH (a : HostAction) : Prop := ∃ (k : Fin 4) (v : DWord), a = .wr (8 + k.val) v

theorem status_of_performAction_writesH (ha : a.WritesH) (h : performAction a s = .next t) :
    t.status = s.status.clearFresh := by
  obtain ⟨k, v, rfl⟩ := ha
  have hk : Reg.ofNumber (8 + k.val) = .h k := Reg.ofNumber_number (.h k)
  simp only [performAction, writeReg, hk] at h
  split at h <;> cases h
  exact writeH_status s _

/-- What the action `a` from `s` to `t` did to STATUS and H (R35, R36, R272). -/
inductive StatusEffect (a : HostAction) (s t : State) : Prop
  /-- Reset or INIT. -/
  | restarted (ha : a = .reset ∨ a = command .init) (hst : t.status = Status.atReset) (hh : t.h = iv)
  /-- A write to H, by the host or by a transform. -/
  | wroteH (ha : a.WritesH ∨ ∃ i, transformsH i = true ∧ a = command i ∧ s.status.err = false)
      (hst : t.status = s.status.clearFresh)
  /-- A DIGEST that completed. -/
  | digested (i : Instr) (hi : isDigest i = true) (ha : a = command i) (hs : s.status.err = false)
      (hst : t.status = s.status.digestDone)
  /-- A write to CMD that raised an error. -/
  | raised (e : Cause) (hst : t.status = s.status.raised e) (hh : t.h = s.h)
  /-- Any other action. -/
  | kept (hst : t.status = s.status) (hh : t.h = s.h)

theorem writeCmd_statusEffect {w : Word} (h : writeCmd w s = .next t) :
    StatusEffect (.wr 0 (w.setWidth 64)) s t := by
  obtain ⟨-, -, e⟩ | ⟨-, -, e⟩ | ⟨hg, i, hd, e⟩ := writeCmd_cases w s <;> rw [e] at h
  · cases h
    exact .kept rfl rfl
  · cases h
    exact .raised .illegal (raise_status s _) (raise_h s _)
  · obtain rfl := eq_encode_of_decode hd
    have gate : i ≠ .init → s.status.err = false := fun hi => hg.resolve_right (mt encode_injective hi)
    obtain ⟨c, rfl⟩ | rfl := exec_raises_or_effect h
    · exact .raised c (raise_status s c) (raise_h s c)
    obtain ⟨rfl, hst, hh⟩ | ⟨hi, hst⟩ | ⟨hi, hst⟩ | ⟨hst, hh⟩ := effect_status_h_cases i s
    · exact .restarted (.inr rfl) hst hh
    · exact .wroteH (.inr ⟨i, hi, rfl, gate (by rintro rfl; cases hi)⟩) hst
    · exact .digested i hi rfl (gate (by rintro rfl; cases hi)) hst
    · exact .kept hst hh

/-- Everything one action can do to STATUS and H. -/
theorem performAction_statusEffect (h : performAction a s = .next t) : StatusEffect a s t := by
  obtain ⟨rfl, rfl⟩ | ⟨n, rfl, rfl⟩ | ⟨addr, bytes, rfl, -, rfl⟩ | ⟨n, v, rfl, -, -, rfl⟩ | ⟨w, rfl, hw⟩ :=
    performAction_cases h
  · exact .restarted (.inl rfl) (resetEngine_status s) (resetEngine_h s)
  · exact .kept rfl rfl
  · exact .kept rfl rfl
  · obtain ⟨k, hr, hst⟩ | ⟨hst, hh⟩ := storeReg_status_h_cases s v (Reg.ofNumber n)
    · have hn : 8 + k.val = n := by
        have := Reg.number_ofNumber (n := n) (by simp [hr])
        rwa [hr] at this
      exact .wroteH (.inl ⟨k, v, by rw [hn]⟩) hst
    · exact .kept hst hh
  · exact writeCmd_statusEffect hw

theorem status_of_performAction_reset_or_init (ha : a = .reset ∨ a = command .init)
    (h : performAction a s = .next t) : t.status = Status.atReset := by
  obtain rfl | rfl := ha
  · rw [performAction_reset] at h
    cases h
    exact resetEngine_status s
  · rw [performAction_command_init] at h
    cases h
    exact freshInstance_status s

/-! ### The two flags -/

/-- FRESH after an action that is none of R35's list is FRESH before it. -/
theorem fresh_kept (h : performAction a s = .next t) (hreset : a ≠ .reset) (hinit : a ≠ command .init)
    (hw : ¬ a.WritesH)
    (hc : ∀ i, (transformsH i || isDigest i) = true → a = command i → s.status.err = true ∨ t.status.err = true) :
    t.status.fresh = s.status.fresh := by
  cases performAction_statusEffect h with
  | restarted ha => exact absurd ha (by simp [hreset, hinit])
  | wroteH ha hst =>
    obtain ha | ⟨i, hi, ha, hs⟩ := ha
    · exact absurd ha hw
    · exact absurd (hc i (by simp [hi]) ha) (by simp [hst, hs])
  | digested i hi ha hs hst => exact absurd (hc i (by simp [hi]) ha) (by simp [hst, hs])
  | raised e hst => rw [hst, Status.raised_fresh]
  | kept hst => rw [hst]

/-- FRESH = 1 means H = IV, after every action as before it. -/
theorem h_eq_iv_of_fresh (h : performAction a s = .next t) (hs : s.status.fresh = true → s.h = iv)
    (hf : t.status.fresh = true) : t.h = iv := by
  cases performAction_statusEffect h with
  | restarted _ _ hh => exact hh
  | wroteH _ hst => simp [hst] at hf
  | digested _ _ _ _ hst => simp [hst] at hf
  | raised e hst hh => exact hh.trans (hs (by simpa [hst] using hf))
  | kept hst hh => exact hh.trans (hs (hst ▸ hf))

/-- DONE after an action that is none of R36's list is DONE before it. -/
theorem done_kept (h : performAction a s = .next t) (hreset : a ≠ .reset) (hinit : a ≠ command .init)
    (hc : ∀ i, isDigest i = true → a = command i → s.status.err = true ∨ t.status.err = true) :
    t.status.done = s.status.done := by
  cases performAction_statusEffect h with
  | restarted ha => exact absurd ha (by simp [hreset, hinit])
  | wroteH _ hst => rw [hst, Status.clearFresh_done]
  | digested i hi ha hs hst => exact absurd (hc i hi ha) (by simp [hst, hs])
  | raised e hst => rw [hst, Status.raised_done]
  | kept hst => rw [hst]

end Sys2Proof.Machine
end

section
/-! The statements about STATUS and its flags, and about reset (10_state.md). -/

namespace Sys2Proof.Machine

/-- Bit j of STATUS (R34); past bit 7 it is a bit past the end of ERRCODE, so 0. -/
theorem Status.toWord_getLsbD (st : Status) (j : Nat) :
    st.toWord.getLsbD j =
      match j with
      | 0 => st.fresh
      | 1 => st.done
      | 2 => st.err
      | 3 => false
      | k + 4 => st.errcode.getLsbD k := by
  have fields : st.toWord.getLsbD j = (0#24 ++ st.errcode ++ 0#1 ++ BitVec.ofBool st.err ++
      BitVec.ofBool st.done ++ BitVec.ofBool st.fresh).getLsbD j := rfl
  rw [fields]
  simp only [BitVec.getLsbD_append]
  obtain _ | _ | _ | _ | k := j
  case succ.succ.succ.succ => simpa using BitVec.lt_of_getLsbD
  all_goals simp

/-- The place of each field in STATUS (R34). -/
theorem Status.toWord_fields (st : Status) :
    st.toWord.getLsbD 0 = st.fresh ∧ st.toWord.getLsbD 1 = st.done ∧ st.toWord.getLsbD 2 = st.err ∧
      st.toWord.getLsbD 3 = false ∧ st.toWord.extractLsb' 4 4 = st.errcode ∧ st.toWord.extractLsb' 8 24 = 0 := by
  have bit := st.toWord_getLsbD
  refine ⟨bit 0, bit 1, bit 2, bit 3, BitVec.eq_of_getLsbD_eq fun j hj => ?_, BitVec.eq_of_getLsbD_eq fun j hj => ?_⟩
  · rw [BitVec.getLsbD_extractLsb', Nat.add_comm 4 j, bit (j + 4)]
    simp [hj]
  · rw [BitVec.getLsbD_extractLsb', show 8 + j = (j + 4) + 4 by omega, bit (j + 4 + 4)]
    simp [BitVec.getLsbD_of_ge]

@[simp] theorem Status.atReset_toWord : Status.atReset.toWord = 0x00000001 := by decide

@[simp] theorem ivBank_get (n : Fin 8) : ivBank.get n = iv := Bank.get_ofFn _ n

/-- Settles O12: the fields of STATUS stand where R34 says, and register 1 ignores a host write. -/
theorem statusRegisterLayout : Obligations.StatusRegisterLayout := by
  intro s
  have hr : Reg.ofNumber 1 = .status := rfl
  refine ⟨s.status.toWord_fields, by rw [hr, readReg], fun v => ?_⟩
  rw [performAction_wr (by simp [HostAction.valueFits, hr, Reg.takesWord]) (by simp [hr]), hr, storeReg]

/-- Settles O16: forward through each action that writes FRESH, and by the cases of an action for what keeps it. -/
theorem freshFlagLifecycle : Obligations.FreshFlagLifecycle := by
  refine ⟨fun a s t h => ⟨fun ha => ?_, fun k v ha => ?_, fun i ha hi hs ht => ?_, fun hreset hinit hw hc => ?_,
    fun hinv => h_eq_iv_of_fresh h hinv.1⟩, fun i s hd hf => exec_of_stale hd hf⟩
  · rw [status_of_performAction_reset_or_init ha h, Status.atReset_fresh]
  · rw [status_of_performAction_writesH ⟨k, v, ha⟩ h, Status.clearFresh_fresh]
  · subst ha
    rw [eq_effect_of_performAction_command h hs ht]
    obtain hi | hi := (Bool.or_eq_true_iff ..).1 hi
    · rw [effect_status_of_transformsH hi, Status.clearFresh_fresh]
    · rw [effect_status_of_isDigest hi, Status.digestDone_fresh]
  · exact fresh_kept h hreset hinit (fun ⟨k, v, ha⟩ => hw k v ha) hc

/-- Settles O17: forward through DIGEST, reset and INIT, by the cases of an action for what keeps DONE, and by the checks
and effects of the commands, none of which reads it. -/
theorem doneFlagLifecycle : Obligations.DoneFlagLifecycle := by
  refine ⟨fun a s t h => ⟨fun ha => ?_, fun i ha hi hs ht => ?_, done_kept h⟩, fun i s t d h => exec_withDone h d⟩
  · rw [status_of_performAction_reset_or_init ha h, Status.atReset_done]
  · subst ha
    rw [eq_effect_of_performAction_command h hs ht, effect_status_of_isDigest hi, Status.digestDone_done]

/-- Settles O19: reset and INIT end in `resetEngine` and `freshInstance`, whose fields are IV, the reset STATUS and zeros. -/
theorem resetAndInitValues : Obligations.ResetAndInitValues := by
  refine ⟨fun s => ⟨resetEngine s, performAction_reset s, ?_⟩, fun s => ⟨freshInstance s, rfl, ?_⟩, ?_⟩
  · simp [iv]
  · simp [iv]
  · simp [State.reset, iv]

end Sys2Proof.Machine
end

section
/-! SUPPORT. No result of a command depends on a byte of MEM outside its range (R81): congruence in the memory, from the
single block up to the batched path and the padding procedure, and then for every command at once. -/

namespace Sys2Proof.Machine

/-- The two memories hold the same n bytes from address p up. -/
def Memory.AgreeOn (m m' : List Host.Cell) (p n : Nat) : Prop :=
  ∀ j, j < n → Memory.read m (p + j) = Memory.read m' (p + j)

variable {m m' : List Host.Cell} {p n : Nat}

/-- Memories that agree on a range agree on each part of it. -/
theorem Memory.AgreeOn.part (h : Memory.AgreeOn m m' p n) {o k : Nat} (hk : o + k ≤ n) :
    Memory.AgreeOn m m' (p + o) k := fun j hj => by
  rw [Nat.add_assoc]
  exact h (o + j) (by omega)

theorem memRead_part_congr (h : Memory.AgreeOn m m' p n) {o k : Nat} (hk : o + k ≤ n) :
    memRead m (p + o) k = memRead m' (p + o) k := memRead_congr (h.part hk)

theorem blockAt_congr (h : Memory.AgreeOn m m' p n) {o : Nat} (ho : o + 64 ≤ n) :
    blockAt m (p + o) = blockAt m' (p + o) := memRead_part_congr h ho

theorem chainBlocks_congr (xf : Quad → List Byte → Quad) (h : Memory.AgreeOn m m' p (64 * n)) (q : Quad) :
    chainBlocks xf m p n q = chainBlocks xf m' p n q :=
  List.foldl_ext _ _ q fun q j hj => by
    rw [blockAt_congr h (by have := List.mem_range.1 hj; omega)]

/-- A DIGEST reads its full blocks and the r bytes behind them (R238). -/
theorem digestProcedure_congr (xf : Quad → List Byte → Quad) (h : Memory.AgreeOn m m' p n) (q : Quad) :
    digestProcedure xf m p n q = digestProcedure xf m' p n q := by
  have full : chainBlocks xf m p (n / 64) q = chainBlocks xf m' p (n / 64) q :=
    chainBlocks_congr xf (h.part (o := 0) (by omega)) q
  have tail : memRead m (p + 64 * (n / 64)) (n % 64) = memRead m' (p + 64 * (n / 64)) (n % 64) :=
    memRead_part_congr h (by omega)
  simp only [digestProcedure, full, tail]

/-! ### The batched path -/

theorem vgather_congr (h : Memory.AgreeOn m m' p 512) (i : Nat) : vgather m p i = vgather m' p i :=
  VReg.ext_lane fun s hs => by rw [lane_vgather m p i hs, lane_vgather m' p i hs, blockAt_congr h (by omega)]

theorem batch8_congr (h : Memory.AgreeOn m m' p 512) (hs : Bank) : batch8 m hs p = batch8 m' hs p := by
  have rounds : batchRounds m p (vpack8 hs) = batchRounds m' p (vpack8 hs) :=
    List.foldl_ext _ _ _ fun v i _ => by simp only [batchRound, vgather_congr h]
  rw [batch8, batch8, rounds]

theorem runBatches_congr (h : Memory.AgreeOn m m' p (512 * n)) (hs : Bank) :
    runBatches m p n hs = runBatches m' p n hs :=
  List.foldl_ext _ _ hs fun hs t ht => by
    have := List.mem_range.1 ht
    exact batch8_congr (h.part (by unfold Config.batchBytes; omega)) hs

theorem runRemainder_congr {first r : Nat} (h : Memory.AgreeOn m m' p (64 * (first + r))) (hs : Bank) :
    runRemainder m p first r hs = runRemainder m' p first r hs :=
  List.foldl_ext _ _ hs fun hs k hk => by
    have := List.mem_range.1 hk
    rw [scalarBlock, scalarBlock, blockAt_congr h (by omega)]

theorem runBatched_congr (h : Memory.AgreeOn m m' p (64 * n)) (hs : Bank) :
    runBatched m p n hs = runBatched m' p n hs := by
  have full : runBatches m p (n / 8) hs = runBatches m' p (n / 8) hs :=
    runBatches_congr (h.part (o := 0) (by omega)) hs
  rw [runBatched, runBatched, full]
  exact runRemainder_congr (h.part (o := 0) (by omega)) _

/-! ### Every command -/

variable {i : Instr} {s t : State}

theorem inRange_setMem (i : Instr) (s : State) (m : List Host.Cell) : inRange (s.setMem m) i ↔ inRange s i := by
  cases i <;> rfl

theorem writeH_setMem (q : Quad) (s : State) (m : List Host.Cell) :
    writeH q (s.setMem m) = (writeH q s).setMem m := (rfl)

theorem finishDigest_setMem (q : Quad) (s : State) (m : List Host.Cell) :
    finishDigest q (s.setMem m) = (finishDigest q s).setMem m := (rfl)

theorem setHs_setMem (b : Bank) (s : State) (m : List Host.Cell) :
    (s.setMem m).setHs b = (s.setHs b).setMem m := (rfl)

/-- The effect of a command commutes with a change of MEM outside the bytes it reads. -/
theorem effect_setMem (h : ∀ n, bytesRead s i = some n → Memory.AgreeOn m s.mem s.src.toNat n) :
    effect i (s.setMem m) = (effect i s).setMem m := by
  cases i
  case init | getHash | getHex => rfl
  case xfrmS | xfrmV =>
    have block : blockAt m s.src.toNat = blockAt s.mem s.src.toNat := memRead_congr (h 64 rfl)
    simp [effect, srcAddr, block, writeH_setMem]
  case xfrmnS | xfrmnV =>
    simp [effect, srcAddr, blockCount, chainBlocks_congr _ (h _ rfl), writeH_setMem]
  case xfrmB => simp [effect, srcAddr, batch8_congr (h _ rfl), setHs_setMem]
  case xfrmnB => simp [effect, srcAddr, blockCount, runBatched_congr (h _ rfl), setHs_setMem]
  case digestS | digestV | digestB =>
    simp [effect, srcAddr, lenBytes, digestProcedure_congr _ (h _ rfl), finishDigest_setMem]

/-- A command on a memory with the same bytes in its range does the same, and keeps that memory. -/
theorem exec_setMem (h : ∀ n, bytesRead s i = some n → Memory.AgreeOn m s.mem s.src.toNat n)
    (he : exec i s = .next t) : exec i (s.setMem m) = .next (t.setMem m) := by
  obtain ⟨hd, hf, e⟩ | ⟨hf, hr, e⟩ | ⟨hf, hr, e⟩ := exec_cases i s <;> rw [e] at he <;> cases he
  · exact exec_of_stale (s := s.setMem m) hd hf
  · exact exec_of_not_inRange (s := s.setMem m) hf (mt (inRange_setMem i s m).1 hr)
  · rw [← effect_setMem h]
    exact exec_of_inRange (s := s.setMem m) hf ((inRange_setMem i s m).2 hr)

end Sys2Proof.Machine
end

section
/-! SUPPORT. The rendering of the digest: the bytes of a state (R234, R235), its words read back (R65), and the
characters of the hexadecimal string (R236, R237). -/

namespace Sys2Proof.Machine

theorem leBytes_getElem? {w n j : Nat} (v : BitVec w) (h : j < n) :
    (leBytes n v)[j]? = some (v.extractLsb' (8 * j) 8) := by
  simp [leBytes, h]

@[simp] theorem digestBytes_length (q : Quad) : (digestBytes q).length = 16 := by
  simp [digestBytes, leBytes32]

/-- The four digest bytes of word k. -/
theorem digestBytes_drop_take (q : Quad) (k : Fin 4) :
    ((digestBytes q).drop (4 * k.val)).take 4 = leBytes32 (q.get k) := by
  fin_cases k <;> rfl

/-- Byte j of word k (R65, R247). -/
theorem digestBytes_getElem? (q : Quad) (k : Fin 4) {j : Nat} (h : j < 4) :
    (digestBytes q)[4 * k.val + j]? = some ((q.get k).extractLsb' (8 * j) 8) := by
  rw [← leBytes_getElem? (q.get k) h, ← leBytes32, ← digestBytes_drop_take, List.getElem?_take_of_lt h,
    List.getElem?_drop]

/-- The digest bytes read back as words are the state (R42, R65). -/
theorem wordAt_digestBytes (q : Quad) (k : Fin 4) : wordAt (digestBytes q) k.val = q.get k := by
  rw [wordAt, digestBytes_drop_take, leBytes32, leNat_leBytes, show 256 ^ 4 = 2 ^ 32 from rfl,
    Nat.mod_eq_of_lt (q.get k).isLt, BitVec.ofNat_toNat, BitVec.setWidth_eq]

theorem hexString_cons (b : Byte) (bs : List Byte) :
    hexString (b :: bs) = hexchar (b.extractLsb' 4 4) :: hexchar (b.extractLsb' 0 4) :: hexString bs := rfl

@[simp] theorem hexString_length (bs : List Byte) : (hexString bs).length = 2 * bs.length := by
  induction bs with
  | nil => rfl
  | cons b bs ih => simp only [hexString_cons, List.length_cons, ih]; omega

/-- The two characters of byte n, the high nibble first (R237). -/
theorem hexString_getElem? {bs : List Byte} {n : Nat} {b : Byte} (h : bs[n]? = some b) :
    (hexString bs)[2 * n]? = some (hexchar (b.extractLsb' 4 4)) ∧
      (hexString bs)[2 * n + 1]? = some (hexchar (b.extractLsb' 0 4)) := by
  induction bs generalizing n with
  | nil => simp at h
  | cons c bs ih =>
    cases n with
    | zero =>
      cases h
      exact ⟨rfl, rfl⟩
    | succ n => exact ih h

/-- The sixteen digits are codes of '0'..'9' and 'a'..'f' (R236). -/
theorem isHexCode_hexchar : ∀ n : BitVec 4, isHexCode (hexchar n) = true := by decide

theorem isHexCode_of_mem_hexString {bs : List Byte} {c : Byte} (h : c ∈ hexString bs) : isHexCode c = true := by
  obtain ⟨b, -, hc⟩ := List.mem_flatMap.1 h
  obtain rfl | rfl := List.mem_pair.1 hc <;> exact isHexCode_hexchar _

theorem exec_getHash (s : State) : exec .getHash s = .next (s.setOut (digestBytes s.h)) := rfl

theorem exec_getHex (s : State) : exec .getHex s = .next (s.setHex (hexString (digestBytes s.h))) := rfl

end Sys2Proof.Machine
end

section
/-! The statements about message memory and the bytes read from it and rendered (20_memory.md). -/

namespace Sys2Proof.Machine

theorem inRange_iff {i : Instr} {s : State} {n : Nat} (hb : bytesRead s i = some n) :
    inRange s i ↔ s.src.toNat + n ≤ s.memSize := by
  simp [inRange, hb]

/-- A command that reads MEM raises nothing by its effect. -/
theorem effect_err_of_bytesRead {i : Instr} {s : State} {n : Nat} (hb : bytesRead s i = some n) :
    (effect i s).status.err = s.status.err ∧ (effect i s).status.errcode = s.status.errcode := by
  obtain ⟨rfl, -⟩ | ⟨-, hst⟩ | ⟨-, hst⟩ | ⟨hst, -⟩ := effect_status_h_cases i s
  · cases hb
  all_goals simp [hst]

/-- Settles O25: by the cases of a command, since an effect commutes with a change of MEM outside the range it reads. -/
theorem bytesOutsideTheRangeDoNotMatter : Obligations.BytesOutsideTheRangeDoNotMatter :=
  fun _ _ _ _ h he => exec_setMem h he

/-- Settles O9: the range check decides between the error and the effect, which raises nothing; a sum of 2^64 or more
lies above MEM_SIZE. -/
theorem rangeCheckOnUnboundedNaturals : Obligations.RangeCheckOnUnboundedNaturals := by
  intro i n s hb hf
  have fails (h : s.memSize < s.src.toNat + n) : exec i s = .next (raise .resource s) :=
    exec_of_not_inRange hf fun hr => absurd ((inRange_iff hb).1 hr) (by omega)
  exact ⟨fails, fun h => ⟨effect i s, exec_of_inRange hf ((inRange_iff hb).2 h), effect_err_of_bytesRead hb⟩,
    fun hm h => fails (by omega)⟩

/-- Settles O51: OUT holds the four words of H cut into bytes, and reading a register image undoes the cut. -/
theorem getHashRendersLittleEndianBytes : Obligations.GetHashRendersLittleEndianBytes := by
  refine ⟨fun s => ⟨digestBytes s.h, exec_getHash s, digestBytes_length s.h, fun k j => digestBytes_getElem? s.h k,
    fun n => congrArg (BitVec.setWidth 64) (wordAt_digestBytes s.h n)⟩, by decide, by decide, fun b c d => ?_⟩
  have first := digestBytes_drop_take ⟨0x98500190, b, c, d⟩ 0
  exact first.trans (by decide : leBytes32 0x98500190 = [0x90, 0x01, 0x50, 0x98])

/-- Settles O52: HEX holds the two digits of each of the sixteen digest bytes, and the worked examples are evaluated. -/
theorem getHexRendersLowercaseHex : Obligations.GetHexRendersLowercaseHex := by
  refine ⟨fun s => ⟨hexString (digestBytes s.h), exec_getHex s, by simp, fun c => isHexCode_of_mem_hexString,
    fun n hn => ?_⟩, by decide, by decide, fun s hs => ⟨_, exec_getHex s, ?_⟩⟩
  · have hb := List.getElem?_eq_getElem (l := digestBytes s.h) (i := n) (by simpa using hn)
    exact ⟨_, hb, hexString_getElem? hb⟩
  · rw [show Reg.ofNumber 56 = .hex 0 from rfl, readReg, State.setHex_hex, hs]
    decide

end Sys2Proof.Machine
end

section
/-! The statements about the command words (30_encoding.md). -/

namespace Sys2Proof.Machine

/-- A command's word has the command's fields, and a ZERO field of zeros (R91, R95). -/
theorem fields_encode (i : Instr) :
    opField (encode i) = i.op ∧ pathField (encode i) = i.path ∧ zeroField (encode i) = 0 := by
  obtain ⟨hz, hp, ho⟩ := fields_of_decode (decode_encode i)
  exact ⟨ho, hp, hz⟩

/-- The decoder refuses a word that is no command's (R96, R97). -/
theorem decode_eq_error_of_not_encoded {w : Word} (hw : ∀ i, w ≠ encode i) : ∃ e, decode w = .error e := by
  cases hd : decode w with
  | error e => exact ⟨e, rfl⟩
  | ok i => exact absurd (eq_encode_of_decode hd) (hw i)

/-- With ERR = 0 a word the decoder refuses raises E_ILLEGAL (R276). -/
theorem writeCmd_of_decode_error {w : Word} {s : State} {e : DecodeError} (hs : s.status.err = false)
    (hd : decode w = .error e) : writeCmd w s = .next (raise .illegal s) := by
  simp [writeCmd, hs, hd]

/-- Settles O3: a word the decoder accepts is its command's own word, so the decoder refuses every other one, and the
write to CMD raises E_ILLEGAL. -/
theorem otherWordsRaiseIllegal : Obligations.OtherWordsRaiseIllegal := by
  intro w hw
  obtain ⟨e, hd⟩ := decode_eq_error_of_not_encoded hw
  exact ⟨⟨e, hd⟩, fun s hs => (performAction_cmd w s).trans (writeCmd_of_decode_error hs hd)⟩

/-- Settles O1: a row is right when its word, OP and PATH are what the encoder's columns give for its command, which is
evaluated for the twelve rows; the fields and the decoder's answer then hold of every command's word. -/
theorem theTwelveCommandWords : Obligations.TheTwelveCommandWords := by
  unfold Obligations.TheTwelveCommandWords
  intro rows
  have columns : ∀ r ∈ rows, encode r.1 = r.2.2.2 ∧ r.1.op = r.2.1 ∧ r.1.path = r.2.2.1 := by decide
  refine ⟨fun r hr => ?_, by decide, fun i => by cases i <;> decide⟩
  obtain ⟨hw, ho, hp⟩ := columns r hr
  obtain ⟨fo, fp, fz⟩ := fields_encode r.1
  rw [← hw, ← ho, ← hp]
  exact ⟨fo, fp, fz, rfl, decode_encode r.1⟩

end Sys2Proof.Machine
end

section
/-! SUPPORT. The arithmetic of unit U0: the rotation bit by bit (R122), the nonlinear functions (R123), and the OR of
terms that share no bit. -/

namespace Sys2Proof.Machine

/-! ### Rotation -/

/-- Bit i of a rotation comes from n places below, around the word (R122). -/
theorem getLsbD_rotl32 (x : Word) {n i : Nat} (hn : n ≤ 31) (hi : i < 32) :
    (rotl32 x n).getLsbD i = x.getLsbD ((i + (32 - n)) % 32) := by
  simp only [rotl32, BitVec.getLsbD_or, BitVec.getLsbD_shiftLeft, BitVec.getLsbD_ushiftRight]
  by_cases h : i < n
  · rw [show (i + (32 - n)) % 32 = 32 - n + i by omega]
    simp [h]
  · rw [show (i + (32 - n)) % 32 = i - n by omega, BitVec.getLsbD_of_ge x (32 - n + i) (by omega)]
    simp [h, hi]

/-- The two shifted parts of a rotation share no bit. -/
theorem shiftLeft_and_ushiftRight (x : Word) (n : Nat) : (x <<< n) &&& (x >>> (32 - n)) = 0 := by
  refine BitVec.eq_of_getLsbD_eq fun i hi => ?_
  by_cases h : i < n
  · simp [h]
  · simp [BitVec.getLsbD_of_ge x (32 - n + i) (by omega)]

/-- R122's formula. The two parts share no bit, so their OR is their sum. -/
theorem toNat_rotl32 (x : Word) (n : Nat) :
    (rotl32 x n).toNat = x.toNat * 2 ^ n % 2 ^ 32 + x.toNat / 2 ^ (32 - n) := by
  have apart := BitVec.toNat_add_of_and_eq_zero (shiftLeft_and_ushiftRight x n)
  rw [BitVec.add_eq_or_of_and_eq_zero _ _ (shiftLeft_and_ushiftRight x n)] at apart
  rw [rotl32, apart, BitVec.toNat_shiftLeft, BitVec.toNat_ushiftRight, Nat.shiftLeft_eq, Nat.shiftRight_eq_div_pow]

theorem rotl32_zero (x : Word) : rotl32 x 0 = x :=
  BitVec.eq_of_getLsbD_eq fun i hi => by
    rw [getLsbD_rotl32 x (Nat.zero_le 31) hi, show (i + (32 - 0)) % 32 = i by omega]

/-- A word whose bits are all alike is its own rotation. -/
theorem rotl32_of_bits_eq {x : Word} {v : Bool} (h : ∀ k, k < 32 → x.getLsbD k = v) {n : Nat} (hn : n ≤ 31) :
    rotl32 x n = x :=
  BitVec.eq_of_getLsbD_eq fun i hi => by rw [getLsbD_rotl32 x hn hi, h i hi, h _ (Nat.mod_lt _ (by omega))]

/-! ### OR of terms that share no bit -/

theorem or_eq_add32_of_and_eq_zero {x y : Word} (h : x &&& y = 0) : x ||| y = add32 x y :=
  (BitVec.add_eq_or_of_and_eq_zero x y h).symm

theorem or_eq_xor_of_and_eq_zero {x y : Word} (h : x &&& y = 0) : x ||| y = x ^^^ y := by
  refine BitVec.eq_of_getLsbD_eq fun i hi => ?_
  have hb := congrArg (fun w => w.getLsbD i) h
  revert hb
  simp only [BitVec.getLsbD_and, BitVec.getLsbD_or, BitVec.getLsbD_xor]
  cases x.getLsbD i <;> simp

/-- A word masked and another masked by the complement share no bit. -/
theorem and_and_not_and (b c d : Word) : (b &&& c) &&& (~~~b &&& d) = 0 := by
  refine BitVec.eq_of_getLsbD_eq fun i hi => ?_
  cases h : b.getLsbD i <;> simp [h]

/-! ### The nonlinear functions -/

theorem getLsbD_ff_zero (b c d : Word) {j : Nat} (hj : j < 32) :
    (ff 0 b c d).getLsbD j = if b.getLsbD j then c.getLsbD j else d.getLsbD j := by
  simp only [ff, BitVec.getLsbD_or, BitVec.getLsbD_and, BitVec.getLsbD_not, hj, decide_true, Bool.true_and]
  cases b.getLsbD j <;> simp

/-- Ff(1) is Ff(0) with d as the selector. -/
theorem ff_one_eq (b c d : Word) : ff 1 b c d = ff 0 d b c := by
  simp only [ff, BitVec.and_comm]

theorem ff_zero_eq_xor_and_xor (b c d : Word) : ff 0 b c d = d ^^^ (b &&& (c ^^^ d)) := by
  refine BitVec.eq_of_getLsbD_eq fun j hj => ?_
  simp only [getLsbD_ff_zero b c d hj, BitVec.getLsbD_xor, BitVec.getLsbD_and]
  cases b.getLsbD j <;> simp [Bool.xor_comm (c.getLsbD j)]

theorem ff_zero_eq_xor (b c d : Word) : ff 0 b c d = (b &&& c) ^^^ (~~~b &&& d) :=
  or_eq_xor_of_and_eq_zero (and_and_not_and b c d)

theorem ff_zero_eq_add32 (b c d : Word) : ff 0 b c d = add32 (b &&& c) (~~~b &&& d) :=
  or_eq_add32_of_and_eq_zero (and_and_not_and b c d)

end Sys2Proof.Machine
end

section
/-! SUPPORT. Packing and unpacking (R138, R139): what each does to one word or one lane, and planes by their streams. -/

namespace Sys2Proof.Machine

@[simp] theorem get_vunpack4 (v : VReg 4) (k : Fin 4) : (vunpack4 v).get k = lane v k.val := by
  fin_cases k <;> rfl

@[simp] theorem vpack4_vunpack4 (v : VReg 4) : vpack4 (vunpack4 v) = v :=
  VReg.ext_lane fun j hj => (lane_vpack4 _ ⟨j, hj⟩).trans (get_vunpack4 v ⟨j, hj⟩)

/-- Planes with the same state in every lane are equal. -/
theorem Planes.ext_stream {v w : Planes} (h : ∀ s, s < 8 → v.stream s = w.stream s) : v = w := by
  have ha : v.va = w.va := VReg.ext_lane fun s hs => congrArg Quad.a (h s hs)
  have hb : v.vb = w.vb := VReg.ext_lane fun s hs => congrArg Quad.b (h s hs)
  have hc : v.vc = w.vc := VReg.ext_lane fun s hs => congrArg Quad.c (h s hs)
  have hd : v.vd = w.vd := VReg.ext_lane fun s hs => congrArg Quad.d (h s hs)
  cases v
  cases w
  simpa only [Planes.mk.injEq] using ⟨ha, hb, hc, hd⟩

@[simp] theorem get_vunpack8 (v : Planes) (s : Fin 8) : (vunpack8 v).get s = v.stream s.val := Bank.get_ofFn _ s

@[simp] theorem vunpack8_vpack8 (hs : Bank) : vunpack8 (vpack8 hs) = hs := Bank.ext_get fun s => by simp

@[simp] theorem vpack8_vunpack8 (v : Planes) : vpack8 (vunpack8 v) = v :=
  Planes.ext_stream fun s hs => (stream_vpack8 _ ⟨s, hs⟩).trans (get_vunpack8 v ⟨s, hs⟩)

/-- Lane k of a permuted register is word k of (d, newb, b, c) (R139). -/
theorem lane_vperm (v : VReg 4) (newb : Word) (k : Fin 4) :
    lane (vperm v newb) k.val = Quad.get ⟨lane v 3, newb, lane v 1, lane v 2⟩ k := lane_vpack4 _ k

end Sys2Proof.Machine
end

section
/-! The statements about the ROM and the primitives (40_rom_and_primitives.md). -/

namespace Sys2Proof.Machine

/-- Settles O27: the two shifted parts share no bit, which gives the formula; the bit rule gives the movement and
the words whose bits are all alike; the amounts are read off the ROM's 64 rows. -/
theorem rotationMovesEveryBit : Obligations.RotationMovesEveryBit := by
  refine ⟨fun x n _ _ => toNat_rotl32 x n, rotl32_zero, fun x n j hn hj => ?_,
    fun n hn => ⟨rotl32_of_bits_eq (v := true) (by decide) hn, rotl32_of_bits_eq (v := false) (by decide) hn⟩,
    by decide, by decide, by decide, by decide⟩
  rw [getLsbD_rotl32 x hn (Nat.mod_lt _ (by omega)), show ((j + n) % 32 + (32 - n)) % 32 = j by omega]

/-- Settles O28: bit by bit for Ff(0), whose two terms share no bit; Ff(1) is Ff(0) with its operands in another order;
Ff(2) and Ff(3) by their definitions; the corner cases and the IV example are evaluated. -/
theorem nonlinearFunctionsBitByBit : Obligations.NonlinearFunctionsBitByBit := by
  refine ⟨fun b c d j hj => ⟨getLsbD_ff_zero b c d hj, ?_, ?_, ?_⟩,
    fun b c d => ⟨ff_zero_eq_xor_and_xor b c d, ?_, ff_zero_eq_xor b c d, ff_zero_eq_add32 b c d, ?_, ?_⟩,
    by decide, by decide, by decide, by decide, by decide, by decide, by decide⟩
  · rw [ff_one_eq, getLsbD_ff_zero d b c hj]
  · simp [ff]
  · simp [ff, hj]
  · rw [ff_one_eq, ff_zero_eq_xor_and_xor]
  · rw [ff_one_eq, ff_zero_eq_xor, BitVec.and_comm d, BitVec.and_comm (~~~d)]
  · rw [ff_one_eq, ff_zero_eq_add32, BitVec.and_comm d, BitVec.and_comm (~~~d)]

/-- Settles O31: each unpacking undoes its packing word by word, and each packing its unpacking lane by lane. -/
theorem packingAndUnpackingAreInverse : Obligations.PackingAndUnpackingAreInverse := by
  refine ⟨vunpack4_vpack4, vpack4_vunpack4, vunpack8_vpack8, vpack8_vunpack8, lane_vpack4, fun hs n => ?_⟩
  have h := stream_vpack8 hs n
  exact ⟨congrArg Quad.a h, congrArg Quad.b h, congrArg Quad.c h, congrArg Quad.d h⟩

/-- Settles O26: `add32` is the addition of 32-bit vectors. -/
theorem additionIsModular : Obligations.AdditionIsModular :=
  ⟨BitVec.toNat_add, BitVec.add_comm, BitVec.add_assoc, BitVec.add_zero, by decide, by decide, by decide⟩

/-- The sixteen g's of a quartile are 0..15 in another order (R126). -/
theorem gIndex_quartile_perm :
    ∀ q, q < 4 → ((List.range 16).map fun k => gIndex (16 * q + k)).Perm (List.range 16) := by decide

/-- Settles O29: the two columns are evaluated row by row, and a permutation of 0..15 holds each of them once. -/
theorem romColumnsFollowTheirPatterns : Obligations.RomColumnsFollowTheirPatterns := by
  refine ⟨by decide, by decide, fun q hq j hj => ?_, rfl, rfl, rfl⟩
  rw [(gIndex_quartile_perm q hq).count_eq]
  exact List.count_eq_one_of_mem List.nodup_range (List.mem_range.2 hj)

/-- Settles O30: the lane lemma of each micro-operation; a complement is an exclusive or with all ones. -/
theorem microOperationsLaneByLane : Obligations.MicroOperationsLaneByLane := by
  refine ⟨fun n x y z j q a w h => ⟨lane_vadd x y h, lane_vand x y h, lane_vor x y h, lane_vxor x y h, ?_,
    lane_vandn x y h, lane_vff h q x y z, lane_vrotl x h a, lane_vbcast h w⟩, fun m p i s hs => lane_ofLanes _ hs,
    fun v newb => ⟨lane_vperm v newb 0, lane_vperm v newb 1, lane_vperm v newb 2, lane_vperm v newb 3⟩⟩
  rw [lane_vnot x h]
  exact BitVec.xor_allOnes.symm

end Sys2Proof.Machine
end

section
/-! SUPPORT. Unit U1 step by step: the bytes of a block word (R160), the chain of the rounds (R161, R162), the add-back
(R163), and unit U2 as the same function of state and block (R183). -/

namespace Sys2Proof.Machine

/-! ### The words of a block -/

/-- One more byte of a little-endian natural; a byte past the end counts as 0x00. -/
theorem leNat_take_succ (bs : List Byte) (n : Nat) :
    leNat (bs.take (n + 1)) = (bs.getD 0 0).toNat + 256 * leNat ((bs.drop 1).take n) := by
  cases bs with
  | nil => simp [leNat]
  | cons b bs => simp [leNat]

/-- The four bytes of word j, least significant first (R160). -/
theorem toNat_wordAt (bs : List Byte) (j : Nat) :
    (wordAt bs j).toNat =
      (bs.getD (4 * j) 0).toNat + (bs.getD (4 * j + 1) 0).toNat * 2 ^ 8 +
        (bs.getD (4 * j + 2) 0).toNat * 2 ^ 16 + (bs.getD (4 * j + 3) 0).toNat * 2 ^ 24 := by
  have small : leNat ((bs.drop (4 * j)).take 4) < 2 ^ 32 :=
    (leNat_lt _).trans_le (Nat.pow_le_pow_right (by decide) (List.length_take_le _ _))
  rw [wordAt, BitVec.toNat_ofNat, Nat.mod_eq_of_lt small]
  simp only [leNat_take_succ, List.take_zero, leNat, List.drop_drop, List.getD_eq_getElem?_getD, List.getElem?_drop,
    Nat.add_zero, Nat.add_assoc, Nat.reduceAdd]
  omega

/-! ### The rounds -/

/-- The state after the rounds 0 .. n-1 (R162). -/
def roundChain (x : List Word) (h : Quad) (n : Nat) : Quad :=
  (List.range n).foldl (fun h i => round i x h) h

theorem roundChain_succ (x : List Word) (h : Quad) (n : Nat) :
    roundChain x h (n + 1) = round n x (roundChain x h n) := by
  simp [roundChain, List.range_succ]

theorem compress_eq_addBack_roundChain (h : Quad) (blk : List Byte) :
    compress h blk = addBack h (roundChain (words blk) h 64) := rfl

/-- The sum of a round is one sum of naturals modulo 2^32 (R161). -/
theorem add32_add32_add32 (a f k x : Word) :
    add32 (add32 (add32 a f) k) x = BitVec.ofNat 32 ((a.toNat + f.toNat + k.toNat + x.toNat) % 2 ^ 32) := by
  apply BitVec.eq_of_toNat_eq
  simp [add32]

theorem get_addBack (h r : Quad) (k : Fin 4) : (addBack h r).get k = add32 (h.get k) (r.get k) := by
  fin_cases k <;> rfl

/-! ### Unit U2 is unit U1 on a packed state -/

theorem vunpack4_vadd (x y : VReg 4) : vunpack4 (vadd x y) = addBack (vunpack4 x) (vunpack4 y) :=
  Quad.ext_get fun k => by simp [get_addBack]

/-- Unpacking commutes with each of U2's rounds, and so with all of them (R182). -/
theorem vunpack4_foldl_roundV (l : List Nat) (x : List Word) (vs : VReg 4) :
    vunpack4 (l.foldl (fun vs i => roundV i x vs) vs) = l.foldl (fun h i => round i x h) (vunpack4 vs) :=
  (List.foldl_hom vunpack4 fun vs i => (vunpack4_roundV i x vs).symm).symm

/-- U2 computes what U1 computes (R183). -/
theorem compressV_eq_compress : compressV = compress := by
  funext h blk
  simp only [compressV, compress, rounds64, vunpack4_vadd, vunpack4_foldl_roundV, vunpack4_vpack4]

end Sys2Proof.Machine
end

section
/-! SUPPORT. The transform commands on H, on either unit: the next state by the range check (R165, R166, R184, R185), and
chains over the pattern MEM[n] = n mod 251 of the worked examples. -/

namespace Sys2Proof.Machine

variable {i : Instr}

theorem exec_xfrm (hi : i ∈ [Instr.xfrmS, .xfrmV]) (s : State) : exec i s = .next (transformH compress s) := by
  obtain rfl | rfl := List.mem_pair.1 hi
  · rfl
  · rw [← compressV_eq_compress]
    rfl

theorem exec_xfrmn (hi : i ∈ [Instr.xfrmnS, .xfrmnV]) (s : State) : exec i s = .next (transformNH compress s) := by
  obtain rfl | rfl := List.mem_pair.1 hi
  · rfl
  · rw [← compressV_eq_compress]
    rfl

theorem exec_xfrmn_ok (hi : i ∈ [Instr.xfrmnS, .xfrmnV]) {s : State}
    (h : s.src.toNat + 64 * s.nblk.toNat ≤ s.memSize) :
    exec i s = .next { s with
      h := chainBlocks compress s.mem s.src.toNat s.nblk.toNat s.h, status := { s.status with fresh := false } } := by
  rw [exec_xfrmn hi, transformNH_ok h, writeH_eq]
  rfl

/-- Block j of the pattern MEM[n] = n mod 251. -/
def patternBlock (j : Nat) : List Byte := (List.range 64).map fun k => BitVec.ofNat 8 ((64 * j + k) % 251)

theorem blockAt_of_pattern {m : List Host.Cell} {n : Nat}
    (hm : ∀ a, a < n → Memory.read m a = BitVec.ofNat 8 (a % 251)) {j : Nat} (hj : 64 * j + 64 ≤ n) :
    blockAt m (64 * j) = patternBlock j := by
  refine List.ext_getElem? fun k => ?_
  by_cases hk : k < 64
  · rw [blockAt, Config.blockBytes, memRead_getElem? m _ hk, hm _ (by omega)]
    simp [patternBlock, hk]
  · rw [List.getElem?_eq_none (by simpa using hk), List.getElem?_eq_none (by simpa [patternBlock] using hk)]

/-- A chain from address 0 over the pattern is a chain over its blocks, whatever else MEM holds. -/
theorem chainBlocks_of_pattern (xf : Quad → List Byte → Quad) {m : List Host.Cell} {n : Nat}
    (hm : ∀ a, a < 64 * n → Memory.read m a = BitVec.ofNat 8 (a % 251)) (h : Quad) :
    chainBlocks xf m 0 n h = (List.range n).foldl (fun h j => xf h (patternBlock j)) h :=
  List.foldl_ext _ _ h fun h j hj => by
    rw [Nat.zero_add, blockAt_of_pattern hm (by have := List.mem_range.1 hj; omega)]

/-- The transform of n blocks of the pattern from IV, for a worked example that gives the chain's value. -/
theorem exec_xfrmn_of_pattern (hi : i ∈ [Instr.xfrmnS, .xfrmnV]) {s : State} {n : Nat} {q : Quad} (hh : s.h = iv)
    (hn : s.nblk.toNat = n) (hsrc : s.src = 0) (hsize : 64 * n ≤ s.memSize)
    (hm : ∀ a, a < 64 * n → Memory.read s.mem a = BitVec.ofNat 8 (a % 251))
    (hq : (List.range n).foldl (fun h j => compress h (patternBlock j)) iv = q) :
    exec i s = .next { s with h := q, status := { s.status with fresh := false } } := by
  have src : s.src.toNat = 0 := by rw [hsrc]; rfl
  have chain : chainBlocks compress s.mem s.src.toNat s.nblk.toNat s.h = q := by
    rw [src, hn, hh, chainBlocks_of_pattern compress hm, hq]
  rw [exec_xfrmn_ok hi (by omega), chain]

end Sys2Proof.Machine
end

section
/-! The statements about unit U1 and the transforms of H (41_scalar_transform.md). -/

namespace Sys2Proof.Machine

/-- Settles O32: the chain is the fold of the rounds cut off after i of them, whose last state is added back. -/
theorem compressRunsTheSixtyFourRounds : Obligations.CompressRunsTheSixtyFourRounds := by
  refine ⟨fun h blk _ => ⟨roundChain (words blk) h, fun j _ => toNat_wordAt blk j, rfl, fun i _ => ?_, fun k => ?_⟩,
    by decide, by decide⟩
  · rw [roundChain_succ, round, add32_add32_add32, words_getD blk (gIndex_lt i), quartile]
  · rw [compress_eq_addBack_roundChain, get_addBack]

/-- Settles O36: both units compute the same function, the range check decides, and the examples are evaluated. -/
theorem xfrmCompressesOneBlockIntoH : Obligations.XfrmCompressesOneBlockIntoH := by
  refine ⟨fun i hi s => ⟨fun h => ?_, fun h => ?_⟩, by decide +kernel, by decide +kernel⟩
  · rw [exec_xfrm hi, transformH_ok h, writeH_eq]
    rfl
  · rw [exec_xfrm hi, transformH_range h, raise_eq]
    rfl

/-- Settles O37: the chain's j-th state is H after j blocks, and the two examples are chains over the pattern's blocks. -/
theorem xfrmnChainsBlocksIntoH : Obligations.XfrmnChainsBlocksIntoH := by
  refine ⟨fun i hi s => ⟨fun h => ?_, fun h => ?_⟩, fun s hh hn hsrc hsize hm => ?_, fun s hh hn hsrc hsize hm => ?_⟩
  · exact ⟨fun j => chainBlocks compress s.mem s.src.toNat j s.h, rfl,
      fun j => chainBlocks_succ compress s.mem s.src.toNat j s.h, exec_xfrmn_ok hi h⟩
  · rw [exec_xfrmn hi, transformNH_range h, raise_eq]
    rfl
  · exact exec_xfrmn_of_pattern (n := 2) (by decide) hh (by rw [hn]; rfl) hsrc hsize hm (by decide +kernel)
  · exact exec_xfrmn_of_pattern (n := 8) (by decide) hh (by rw [hn]; rfl) hsrc hsize hm (by decide +kernel)

end Sys2Proof.Machine
end

section
/-! SUPPORT. The DIGEST commands: all three paths run one procedure with the same compression (R243, R244). -/

namespace Sys2Proof.Machine

theorem exec_digest {i : Instr} (hi : i ∈ [Instr.digestS, .digestV, .digestB]) (s : State) :
    exec i s = .next (digestH compress s) := by
  obtain rfl | hi := List.mem_cons.1 hi
  · rfl
  obtain rfl | rfl := List.mem_pair.1 hi
  · rw [← compressV_eq_compress]
    rfl
  · rfl

end Sys2Proof.Machine
end

section
/-! The statement about unit U2 (42_vector_single_stream.md). -/

namespace Sys2Proof.Machine

/-- Settles O33: unpacking carries the 64 rounds of U2 to those of U1, so the two compressions are one function, and
each command of path V runs the body of its twin on path S with that function. -/
theorem singleStreamUnitComputesCompress : Obligations.SingleStreamUnitComputesCompress := by
  refine ⟨fun h blk _ => by rw [compressV_eq_compress], fun s => ⟨?_, ?_, ?_⟩⟩
  · rw [exec_xfrm (i := .xfrmV) (by decide), exec_xfrm (i := .xfrmS) (by decide)]
  · rw [exec_xfrmn (i := .xfrmnV) (by decide), exec_xfrmn (i := .xfrmnS) (by decide)]
  · rw [exec_digest (i := .digestV) (by decide), exec_digest (i := .digestS) (by decide)]

end Sys2Proof.Machine
end

section
/-! SUPPORT. Unit U3 is unit U1 in every stream (R206), and the batched path deals the blocks to the streams one after
another (R210), so that each stream is a chain over its own blocks. -/

namespace Sys2Proof.Machine

/-! ### One batch, stream by stream -/

theorem stream_batchAddBack (v w : Planes) {s : Nat} (h : s < 8) :
    (batchAddBack v w).stream s = addBack (v.stream s) (w.stream s) := by
  simp [batchAddBack, Planes.stream, addBack, h]

/-- Taking one stream commutes with each round of a batch, and so with all of them (R204). -/
theorem stream_batchRounds (m : List Host.Cell) (p : Nat) (v : Planes) {s : Nat} (h : s < 8) :
    (batchRounds m p v).stream s = rounds64 (words (blockAt m (p + 64 * s))) (v.stream s) :=
  (List.foldl_hom (Planes.stream · s) fun v i => (stream_batchRound m p i v h).symm).symm

/-- One batch compresses each stream's own block into it (R206). -/
theorem get_batch8 (m : List Host.Cell) (hs : Bank) (p : Nat) (n : Fin 8) :
    (batch8 m hs p).get n = compress (hs.get n) (blockAt m (p + 64 * n.val)) := by
  rw [batch8, get_vunpack8, stream_batchAddBack _ _ n.isLt, stream_batchRounds m p _ n.isLt, stream_vpack8, compress]

/-! ### Dealing blocks to streams -/

/-- The blocks of the list in order, block j into stream j mod 8 (R210). -/
def dealBlocks (m : List Host.Cell) (p : Nat) (blocks : List Nat) (hs : Bank) : Bank :=
  blocks.foldl (fun hs j => scalarBlock m p j hs) hs

/-- The blocks of the list in order, all into one state. -/
def compressBlocks (m : List Host.Cell) (p : Nat) (blocks : List Nat) (h : Quad) : Quad :=
  blocks.foldl (fun h j => compress h (blockAt m (p + 64 * j))) h

/-- The blocks of the list that go into stream n, in order (R210). -/
def streamBlocks (n : Fin 8) (blocks : List Nat) : List Nat := blocks.filter fun j => j % 8 == n.val

variable (m : List Host.Cell) (p : Nat)

theorem compressBlocks_nil (h : Quad) : compressBlocks m p [] h = h := (rfl)

theorem compressBlocks_cons (j : Nat) (blocks : List Nat) (h : Quad) :
    compressBlocks m p (j :: blocks) h = compressBlocks m p blocks (compress h (blockAt m (p + 64 * j))) :=
  List.foldl_cons ..

theorem dealBlocks_cons (j : Nat) (blocks : List Nat) (hs : Bank) :
    dealBlocks m p (j :: blocks) hs = dealBlocks m p blocks (scalarBlock m p j hs) := List.foldl_cons ..

theorem dealBlocks_append (xs ys : List Nat) (hs : Bank) :
    dealBlocks m p (xs ++ ys) hs = dealBlocks m p ys (dealBlocks m p xs hs) := List.foldl_append

theorem dealBlocks_range_succ (n : Nat) (hs : Bank) :
    dealBlocks m p (List.range (n + 1)) hs = scalarBlock m p n (dealBlocks m p (List.range n) hs) := by
  rw [List.range_succ, dealBlocks_append]
  rfl

/-- The first blocks, then those that follow them. -/
theorem dealBlocks_range_add (a b : Nat) (hs : Bank) :
    dealBlocks m p (List.range (a + b)) hs =
      dealBlocks m p (List.range' a b) (dealBlocks m p (List.range a) hs) := by
  rw [← dealBlocks_append, List.range_eq_range', List.range_eq_range', ← List.range'_append_1, Nat.zero_add]

/-- A block dealt out changes its own stream only. -/
theorem get_scalarBlock (j : Nat) (hs : Bank) (n : Fin 8) :
    (scalarBlock m p j hs).get n =
      if j % 8 = n.val then compress (hs.get n) (blockAt m (p + 64 * j)) else hs.get n := by
  rw [scalarBlock, Bank.get_set]
  by_cases h : j % 8 = n.val
  · rw [if_pos h, if_pos (Fin.ext h.symm), show Fin.ofNat 8 j = n from Fin.ext h]
  · rw [if_neg h, if_neg fun e => h (congrArg Fin.val e).symm]

/-- A stream is the chain over its own blocks (R212). -/
theorem get_dealBlocks (blocks : List Nat) (hs : Bank) (n : Fin 8) :
    (dealBlocks m p blocks hs).get n = compressBlocks m p (streamBlocks n blocks) (hs.get n) := by
  induction blocks generalizing hs with
  | nil => rfl
  | cons j blocks ih =>
    rw [dealBlocks_cons, ih, get_scalarBlock]
    by_cases h : j % 8 = n.val <;> simp [streamBlocks, compressBlocks_cons, h]

/-! ### The batched path deals its blocks in order -/

/-- Of the eight blocks of batch t, stream n takes the n-th. -/
theorem streamBlocks_batch (n : Fin 8) (t : Nat) : streamBlocks n (List.range' (8 * t) 8) = [8 * t + n.val] := by
  have own : ∀ n : Fin 8, streamBlocks n (List.range 8) = [n.val] := by decide
  calc streamBlocks n (List.range' (8 * t) 8)
      = (streamBlocks n (List.range 8)).map (8 * t + ·) := by
        simp [streamBlocks, List.range'_eq_map_range, List.filter_map, Function.comp_def]
    _ = [8 * t + n.val] := by rw [own, List.map_singleton]

/-- Batch t is its eight blocks dealt out (R209, R210). -/
theorem batch8_eq_dealBlocks (t : Nat) (hs : Bank) :
    batch8 m hs (p + 512 * t) = dealBlocks m p (List.range' (8 * t) 8) hs :=
  Bank.ext_get fun n => by
    have addr : p + 512 * t + 64 * n.val = p + 64 * (8 * t + n.val) := by omega
    rw [get_batch8, get_dealBlocks, streamBlocks_batch, compressBlocks_cons, compressBlocks_nil, addr]

theorem runBatches_succ (nb : Nat) (hs : Bank) :
    runBatches m p (nb + 1) hs = batch8 m (runBatches m p nb hs) (p + Config.batchBytes * nb) := by
  simp [runBatches, List.range_succ]

theorem runBatches_eq_dealBlocks (nb : Nat) (hs : Bank) :
    runBatches m p nb hs = dealBlocks m p (List.range (8 * nb)) hs := by
  induction nb with
  | zero => simp [runBatches, dealBlocks]
  | succ nb ih =>
    rw [runBatches_succ, ih, Config.batchBytes, batch8_eq_dealBlocks, Nat.mul_succ, dealBlocks_range_add]

theorem runRemainder_eq_dealBlocks (first r : Nat) (hs : Bank) :
    runRemainder m p first r hs = dealBlocks m p (List.range' first r) hs := by
  rw [dealBlocks, List.range'_eq_map_range, List.foldl_map, runRemainder]

/-- Batches and remainder together are the blocks dealt out in order (R210). -/
theorem runBatched_eq_dealBlocks (n : Nat) (hs : Bank) :
    runBatched m p n hs = dealBlocks m p (List.range n) hs := by
  rw [runBatched, runRemainder_eq_dealBlocks, runBatches_eq_dealBlocks, ← dealBlocks_range_add, Nat.div_add_mod]

/-! ### Chains over the pattern of the worked examples -/

variable {m}

/-- A chain from address 0 over blocks of the pattern MEM[n] = n mod 251, whatever else MEM holds. -/
theorem compressBlocks_of_pattern {size : Nat} {blocks : List Nat}
    (hm : ∀ a, a < size → Memory.read m a = BitVec.ofNat 8 (a % 251))
    (hb : ∀ j ∈ blocks, 64 * j + 64 ≤ size) (h : Quad) :
    compressBlocks m 0 blocks h = blocks.foldl (fun h j => compress h (patternBlock j)) h :=
  List.foldl_ext _ _ h fun h j hj => by rw [Nat.zero_add, blockAt_of_pattern hm (hb j hj)]

end Sys2Proof.Machine
end

section
/-! SUPPORT. The programs that R212 compares with: LDH, and XFRM.S or XFRM.V over a list of blocks. -/

namespace Sys2Proof.Machine

/-- A host write of a word to H[k] (R44). -/
theorem performAction_wr_h (k : Fin 4) (w : Word) (s : State) :
    performAction (.wr (Reg.number (.h k)) (w.setWidth 64)) s = .next (writeH (s.h.set k w) s) := by
  rw [performAction_wr (HostAction.valueFits_word _ w) (by simp), Reg.ofNumber_number, storeReg]
  simp

theorem performAction_wr_src (v : DWord) (s : State) :
    performAction (.wr (Reg.number .src) v) s = .next (s.setSrc v) := rfl

/-- The last of two writes to H counts. -/
theorem writeH_writeH (p q : Quad) (s : State) : writeH q (writeH p s) = writeH q s := (rfl)

/-- LDH writes H, and FRESH with it (R100). -/
theorem runActions_asmLdh (q : Quad) (s : State) : runActions (asmLdh q) s = .next (writeH q s) := by
  rw [asmLdh, runActions_cons_next (performAction_wr_h 0 q.a s), runActions_cons_next (performAction_wr_h 1 q.b _),
    runActions_cons_next (performAction_wr_h 2 q.c _), runActions_cons_next (performAction_wr_h 3 q.d _), runActions]
  simp only [writeH_writeH, writeH_h]
  rfl

/-- `XFRM.p src`, on either path, compresses the block at src into H (R100, R165, R184). -/
theorem runActions_asmXfrm {i : Instr} (hi : i ∈ [Instr.xfrmS, .xfrmV]) {s : State} {a : DWord}
    (hs : s.status.err = false) (ha : a.toNat + 64 ≤ s.memSize) :
    runActions (asmXfrm i a) s = .next (writeH (compress s.h (blockAt s.mem a.toNat)) (s.setSrc a)) := by
  have run : performAction (command i) (s.setSrc a) = .next (transformH compress (s.setSrc a)) := by
    rw [performAction_command_of_not_err i (s := s.setSrc a) hs, exec_xfrm hi]
  rw [asmXfrm, runActions_cons_next (performAction_wr_src a s), runActions_cons_next run, runActions,
    transformH_ok (s := s.setSrc a) ha]
  simp only [State.setSrc_h, State.setSrc_mem, srcAddr, State.setSrc_src]

/-- The address of a block inside MEM does not wrap at 2^64 (R10). -/
theorem toNat_add_blockOffset {p : DWord} {j : Nat} (h : p.toNat + 64 * j < 2 ^ 64) :
    (p + BitVec.ofNat 64 (64 * j)).toNat = p.toNat + 64 * j := by
  rw [BitVec.toNat_add, BitVec.toNat_ofNat]
  omega

/-- XFRM.p on each block of the list in order chains these blocks into H. -/
theorem runActions_flatMap_asmXfrm {i : Instr} (hi : i ∈ [Instr.xfrmS, .xfrmV]) (p : DWord) {blocks : List Nat}
    {s : State} (hs : s.status.err = false) (hmax : s.memSize ≤ 2 ^ 61 - 1)
    (hb : ∀ j ∈ blocks, p.toNat + 64 * j + 64 ≤ s.memSize) :
    ∃ u, runActions (blocks.flatMap fun j => asmXfrm i (p + BitVec.ofNat 64 (64 * j))) s = .next u ∧
      u.h = compressBlocks s.mem p.toNat blocks s.h := by
  induction blocks generalizing s with
  | nil => exact ⟨s, rfl, rfl⟩
  | cons j blocks ih =>
    have hj := hb j List.mem_cons_self
    have addr := toNat_add_blockOffset (p := p) (j := j) (by omega)
    have first := runActions_asmXfrm hi (a := p + BitVec.ofNat 64 (64 * j)) hs (by omega)
    rw [addr] at first
    obtain ⟨u, hu, hh⟩ := ih (s := writeH (compress s.h (blockAt s.mem (p.toNat + 64 * j)))
      (s.setSrc (p + BitVec.ofNat 64 (64 * j)))) (by simpa using hs) (by simpa using hmax)
      (by simpa using fun k hk => hb k (List.mem_cons_of_mem j hk))
    refine ⟨u, by rw [List.flatMap_cons, runActions_append_next first, hu], ?_⟩
    rw [hh]
    simp [compressBlocks_cons]

end Sys2Proof.Machine
end

section
/-! The statements about unit U3 and the transforms of HS (43_batched_8way.md). -/

namespace Sys2Proof.Machine

/-- Settles O34: taking one stream of the planes commutes with packing, with each of the 64 rounds, with the add-back and
with unpacking. -/
theorem batchComputesCompressPerStream : Obligations.BatchComputesCompressPerStream := get_batch8

/-- Settles O39: the range check decides, one batch compresses each stream's block, and the example's blocks are the
pattern's. -/
theorem xfrmBAdvancesEveryStream : Obligations.XfrmBAdvancesEveryStream := by
  refine ⟨fun s => ⟨fun h => ⟨_, execXfrmB_ok h, get_batch8 _ _ _⟩, execXfrmB_range⟩, fun s hhs hsrc hsize hm => ?_⟩
  have src : s.src.toNat = 0 := by rw [hsrc]; rfl
  have stream (n : Fin 8) : (batch8 s.mem s.hs (srcAddr s)).get n = compress iv (patternBlock n.val) := by
    rw [get_batch8, hhs, ivBank_get, srcAddr, src, Nat.zero_add, blockAt_of_pattern hm (by omega)]
  refine ⟨_, execXfrmB_ok (by omega), (stream 0).trans ?_, (stream 7).trans ?_⟩ <;> decide +kernel

theorem exec_xfrmnB_ok {s : State} (h : s.src.toNat + 64 * s.nblk.toNat ≤ s.memSize) :
    exec .xfrmnB s = .next { s with hs := dealBlocks s.mem s.src.toNat (List.range s.nblk.toNat) s.hs } := by
  rw [← setHs_eq, ← runBatched_eq_dealBlocks]
  exact execXfrmnB_ok h

/-- Settles O40: the j-th bank is what dealing out the first j blocks leaves, and a stream of the example is the chain over
its own blocks of the pattern. -/
theorem xfrmnBDealsBlocksToStreams : Obligations.XfrmnBDealsBlocksToStreams := by
  refine ⟨fun s => ⟨fun h => ?_, execXfrmnB_range⟩, fun s hhs hsrc hn hsize hm => ?_⟩
  · exact ⟨fun j => dealBlocks s.mem s.src.toNat (List.range j) s.hs, rfl,
      fun j => dealBlocks_range_succ s.mem s.src.toNat j s.hs, exec_xfrmnB_ok h⟩
  · have src : s.src.toNat = 0 := by rw [hsrc]; rfl
    have nblk : s.nblk.toNat = 9 := by rw [hn]; rfl
    have stream (n : Fin 8) : (dealBlocks s.mem s.src.toNat (List.range s.nblk.toNat) s.hs).get n =
        (streamBlocks n (List.range 9)).foldl (fun h j => compress h (patternBlock j)) iv := by
      rw [get_dealBlocks, hhs, ivBank_get, src, nblk, compressBlocks_of_pattern hm fun j hj => ?_]
      have := List.mem_range.1 (List.mem_of_mem_filter hj)
      omega
    refine ⟨_, exec_xfrmnB_ok (by omega), (stream 0).trans ?_, (stream 1).trans ?_⟩ <;> decide +kernel

/-- Settles O41: both sides are the chain over the stream's own blocks, on the left because block j changes stream
j mod 8 only, on the right because LDH loads H and each XFRM.S compresses one block into it. -/
theorem batchedPathMatchesScalarPerStream : Obligations.BatchedPathMatchesScalarPerStream := by
  intro s t n hmax hs hrange ht
  rw [exec_xfrmnB_ok hrange] at ht
  cases ht
  have inside : ∀ j ∈ streamBlocks n (List.range s.nblk.toNat), s.src.toNat + 64 * j + 64 ≤ s.memSize := fun j hj => by
    have := List.mem_range.1 (List.mem_of_mem_filter hj)
    omega
  obtain ⟨u, hu, hh⟩ := runActions_flatMap_asmXfrm (i := .xfrmS) (by decide) s.src (s := writeH (s.hs.get n) s)
    (by simpa using hs) (by simpa using hmax) (by simpa using inside)
  refine ⟨u, (runActions_append_next (runActions_asmLdh (s.hs.get n) s)).trans hu, ?_⟩
  rw [hh, get_dealBlocks, writeH_mem, writeH_h]

end Sys2Proof.Machine
end

section
/-! SUPPORT. The padded message and its frames (R231, R232): the message's own full blocks, then the one or two frames
that hold its tail, the byte 0x80 and the length (R239), which are also what the padding procedure chains (R238). -/

namespace Sys2Proof.Machine

/-! ### A byte string cut into 64-byte pieces -/

/-- The first n 64-byte pieces of a byte string. -/
def pieces (n : Nat) (bytes : List Byte) : List (List Byte) :=
  (List.range n).map fun t => (bytes.drop (64 * t)).take 64

theorem frames_eq_pieces_pad (msg : List Byte) : frames msg = pieces ((msg.length + 8) / 64 + 1) (pad msg) := (rfl)

@[simp] theorem pieces_length (n : Nat) (bytes : List Byte) : (pieces n bytes).length = n := by simp [pieces]

theorem pieces_getElem? {n t : Nat} (ht : t < n) (bytes : List Byte) :
    (pieces n bytes)[t]? = some ((bytes.drop (64 * t)).take 64) := by
  simp [pieces, ht]

theorem length_of_mem_pieces {n : Nat} {bytes f : List Byte} (h : 64 * n ≤ bytes.length) (hf : f ∈ pieces n bytes) :
    f.length = 64 := by
  obtain ⟨t, ht, rfl⟩ := List.mem_map.1 hf
  have := List.mem_range.1 ht
  rw [List.length_take, List.length_drop]
  omega

theorem flatten_pieces (n : Nat) (bytes : List Byte) : (pieces n bytes).flatten = bytes.take (64 * n) := by
  induction n with
  | zero => rfl
  | succ n ih =>
    rw [pieces] at ih ⊢
    rw [List.range_succ, List.map_append, List.flatten_append, ih, Nat.mul_succ, List.take_add]
    simp

theorem pieces_succ_append {f : List Byte} (hf : f.length = 64) (n : Nat) (bytes : List Byte) :
    pieces (n + 1) (f ++ bytes) = f :: pieces n bytes := by
  have rest (t : Nat) : (f ++ bytes).drop (64 * (t + 1)) = bytes.drop (64 * t) := by
    rw [Nat.mul_succ, Nat.add_comm, ← hf, ← List.drop_drop, List.drop_left]
  simp [pieces, List.range_succ_eq_map, rest, List.take_left' hf]

/-- A list of 64-byte strings is what its concatenation is cut into. -/
theorem pieces_flatten {fs : List (List Byte)} (h : ∀ f ∈ fs, f.length = 64) : pieces fs.length fs.flatten = fs := by
  induction fs with
  | nil => rfl
  | cons f fs ih =>
    obtain ⟨hf, hfs⟩ := List.forall_mem_cons.1 h
    rw [List.length_cons, List.flatten_cons, pieces_succ_append hf, ih hfs]

/-! ### The padded message -/

/-- The length suffix is taken modulo 2^64 by its width already (R231). -/
@[simp] theorem le64_mod (n : Nat) : le64 (n % 2 ^ 64) = le64 n :=
  congrArg (leBytes 8) (BitVec.eq_of_toNat_eq (by simp))

@[simp] theorem le64_length (n : Nat) : (le64 n).length = 8 := leBytes_length 8 _

theorem padZeros_cast (len : Nat) : (padZeros len : Int) = (55 - (len : Int)) % 64 :=
  Int.toNat_of_nonneg (by omega)

/-- The zeros fill the frame of the tail up to its byte 55, or that frame and the next one up to its byte 55. -/
theorem padZeros_eq (len : Nat) :
    padZeros len = if len % 64 ≤ 55 then 55 - len % 64 else (63 - len % 64) + 56 := by
  unfold padZeros
  split <;> omega

theorem length_pad (msg : List Byte) : (pad msg).length = msg.length + 1 + padZeros msg.length + 8 := by
  simp [pad]
  omega

theorem length_pad_eq_mul (msg : List Byte) : (pad msg).length = 64 * ((msg.length + 8) / 64 + 1) := by
  rw [length_pad, padZeros_eq]
  split <;> omega

/-! ### The frames -/

/-- The frames behind the full blocks: the tail, 0x80, zeros and the suffix, in one frame where they fit and in two
where they do not (R239). -/
def lastFrames (tail suffix : List Byte) : List (List Byte) :=
  if tail.length ≤ 55 then [tail ++ [0x80] ++ List.replicate (55 - tail.length) 0x00 ++ suffix]
  else [tail ++ [0x80] ++ List.replicate (63 - tail.length) 0x00, List.replicate 56 0x00 ++ suffix]

section LastFrames
variable {tail suffix : List Byte}

theorem lastFrames_of_le (h : tail.length ≤ 55) :
    lastFrames tail suffix = [tail ++ [0x80] ++ List.replicate (55 - tail.length) 0x00 ++ suffix] := if_pos h

theorem lastFrames_of_lt (h : 55 < tail.length) :
    lastFrames tail suffix =
      [tail ++ [0x80] ++ List.replicate (63 - tail.length) 0x00, List.replicate 56 0x00 ++ suffix] :=
  if_neg (by omega)

theorem length_of_mem_lastFrames (ht : tail.length < 64) (hs : suffix.length = 8) {f : List Byte}
    (hf : f ∈ lastFrames tail suffix) : f.length = 64 := by
  by_cases h : tail.length ≤ 55
  · rw [lastFrames_of_le h, List.mem_singleton] at hf
    simp [hf, hs]
    omega
  · rw [lastFrames_of_lt (by omega), List.mem_pair] at hf
    obtain rfl | rfl := hf <;> simp [hs]
    omega

theorem flatten_lastFrames : (lastFrames tail suffix).flatten =
    tail ++ [0x80] ++
      List.replicate (if tail.length ≤ 55 then 55 - tail.length else (63 - tail.length) + 56) 0x00 ++ suffix := by
  by_cases h : tail.length ≤ 55
  · simp [lastFrames_of_le h, h]
  · rw [lastFrames_of_lt (by omega), if_neg h, List.replicate_add]
    simp

/-- The last frame ends with the suffix, at its bytes 56 to 63 (R239). -/
theorem getLast?_lastFrames : ∃ f, (lastFrames tail suffix).getLast? = some f ∧ f.drop 56 = suffix := by
  by_cases h : tail.length ≤ 55
  · exact ⟨_, by rw [lastFrames_of_le h, List.getLast?_singleton], List.drop_left' (by simp; omega)⟩
  · exact ⟨_, by rw [lastFrames_of_lt (by omega)]; rfl, List.drop_left' (by simp)⟩

end LastFrames

theorem length_tail (msg : List Byte) : (msg.drop (64 * (msg.length / 64))).length = msg.length % 64 := by
  rw [List.length_drop]
  omega

/-- The frames are the only 64-byte strings that make up the padded message (R232). -/
theorem frames_eq_of_flatten_eq_pad {msg : List Byte} {fs : List (List Byte)} (h : ∀ f ∈ fs, f.length = 64)
    (hp : fs.flatten = pad msg) : frames msg = fs := by
  have count : fs.length * 64 = 64 * ((msg.length + 8) / 64 + 1) := by
    rw [← length_pad_eq_mul, ← hp, List.length_flatten, List.map_congr_left h, List.map_const', List.sum_replicate,
      smul_eq_mul]
  rw [frames_eq_pieces_pad, ← hp, ← Nat.eq_of_mul_eq_mul_left (by decide) ((Nat.mul_comm ..).trans count),
    pieces_flatten h]

/-- The frames of a message are its full blocks and the frames assembled from its tail. -/
theorem frames_eq (msg : List Byte) :
    frames msg = pieces (msg.length / 64) msg ++
      lastFrames (msg.drop (64 * (msg.length / 64))) (le64 (8 * msg.length)) := by
  have ht := length_tail msg
  refine frames_eq_of_flatten_eq_pad (fun f hf => (List.mem_append.1 hf).elim (length_of_mem_pieces (by omega))
    (length_of_mem_lastFrames (by omega) (le64_length _))) ?_
  rw [List.flatten_append, flatten_pieces, flatten_lastFrames, ht, ← padZeros_eq, pad, le64_mod]
  simp only [← List.append_assoc, List.take_append_drop]

@[simp] theorem frames_length (msg : List Byte) : (frames msg).length = (msg.length + 8) / 64 + 1 := by
  simp [frames]

theorem flatten_frames (msg : List Byte) : (frames msg).flatten = pad msg := by
  rw [frames_eq_pieces_pad, flatten_pieces, ← length_pad_eq_mul, List.take_length]

theorem length_of_mem_frames {msg f : List Byte} (hf : f ∈ frames msg) : f.length = 64 :=
  length_of_mem_pieces (length_pad_eq_mul msg).ge hf

/-- The last eight bytes of the last frame are the length suffix (R239, R240). -/
theorem getLast?_frames (msg : List Byte) :
    ∃ f, (frames msg).getLast? = some f ∧ f.drop 56 = le64 (8 * msg.length) := by
  obtain ⟨f, hf, hd⟩ := getLast?_lastFrames (tail := msg.drop (64 * (msg.length / 64)))
    (suffix := le64 (8 * msg.length))
  exact ⟨f, by rw [frames_eq, List.getLast?_append, hf, Option.some_or], hd⟩

/-! ### The padding procedure -/

theorem pieces_memRead (m : List Host.Cell) (p : Nat) {n len : Nat} (h : 64 * n ≤ len) :
    pieces n (memRead m p len) = (List.range n).map fun t => blockAt m (p + 64 * t) :=
  List.map_congr_left fun t ht => by
    have := List.mem_range.1 ht
    rw [memRead_drop m p (by omega), memRead_take m _ (by omega), blockAt, Config.blockBytes]

/-- The procedure of R238 chains the frames of the padded message, whatever the compression. -/
theorem digestProcedure_eq_foldl_frames (xf : Quad → List Byte → Quad) (m : List Host.Cell) (p len : Nat) (h : Quad) :
    digestProcedure xf m p len h = (frames (memRead m p len)).foldl xf h := by
  have full : (pieces (len / 64) (memRead m p len)).foldl xf h = chainBlocks xf m p (len / 64) h := by
    rw [pieces_memRead m p (by omega), List.foldl_map, chainBlocks]
  have tail : (memRead m p len).drop (64 * (len / 64)) = memRead m (p + 64 * (len / 64)) (len % 64) := by
    rw [memRead_drop m p (by omega), show len - 64 * (len / 64) = len % 64 by omega]
  rw [frames_eq, List.foldl_append, memRead_length, full, tail]
  simp only [digestProcedure, le64_mod, Nat.div_add_mod]
  split
  next h =>
    rw [lastFrames_of_lt (by rw [memRead_length]; omega)]
    simp
  next h =>
    rw [lastFrames_of_le (by rw [memRead_length]; omega)]
    simp

end Sys2Proof.Machine
end

section
/-! SUPPORT. With FRESH = 1 the DIGEST commands leave the MD5 state of the message in H (R242 to R244). -/

namespace Sys2Proof.Machine

variable {i : Instr} {s : State}

/-- Which path a DIGEST is given makes no difference (R246). -/
theorem exec_digest_path_irrelevant {j : Instr} (hi : i ∈ [Instr.digestS, .digestV, .digestB])
    (hj : j ∈ [Instr.digestS, .digestV, .digestB]) (s : State) : exec i s = exec j s := by
  rw [exec_digest hi, exec_digest hj]

theorem exec_digest_ok (hi : i ∈ [Instr.digestS, .digestV, .digestB]) (hf : s.status.fresh = true) (hh : s.h = iv)
    (hr : s.src.toNat + s.len.toNat ≤ s.memSize) :
    exec i s = .next (finishDigest (md5state (message s)) s) := by
  rw [exec_digest hi, digestH_ok hf hr, digestProcedure_eq_foldl_frames, hh, md5state, message]

/-- A command line of DIGEST with FRESH = 1 (R92, R242). -/
theorem performAction_digest (hi : i ∈ [Instr.digestS, .digestV, .digestB]) (hf : s.status.fresh = true)
    (he : s.status.err = false) (hh : s.h = iv) (hr : s.src.toNat + s.len.toNat ≤ s.memSize) :
    performAction (command i) s = .next (finishDigest (md5state (message s)) s) := by
  rw [performAction_command_of_not_err i he, exec_digest_ok hi hf hh hr]

/-- After INIT, a DIGEST on any path and GETHEX, HEX is the message's digest in hexadecimal (R241 to R248). -/
theorem runActions_init_digest_getHex (hi : i ∈ [Instr.digestS, .digestV, .digestB])
    (hr : s.src.toNat + s.len.toNat ≤ s.memSize) :
    ∃ t, runActions [command .init, command i, command .getHex] s = .next t ∧ t.hex = hexString (md5 (message s)) := by
  have digest : performAction (command i) (freshInstance s) =
      .next (finishDigest (md5state (message s)) (freshInstance s)) :=
    performAction_digest hi (by simp) (by simp) (by simp) (by simpa using hr)
  have hex : performAction (command .getHex) (finishDigest (md5state (message s)) (freshInstance s)) =
      .next ((finishDigest (md5state (message s)) (freshInstance s)).setHex (hexString (md5 (message s)))) := by
    rw [performAction_command_of_not_err .getHex (by simp), exec_getHex, finishDigest_h, md5]
  exact ⟨_, by rw [runActions_cons_next (performAction_command_init s), runActions_cons_next digest,
    runActions_cons_next hex, runActions], State.setHex_hex _ _⟩

end Sys2Proof.Machine
end

section
/-! The statements about the driver: INIT, the padding and the DIGEST commands (44_digest_driver.md). -/

namespace Sys2Proof.Machine

/-- Settles O43: INIT ends in `freshInstance`, on either side of the ERR gate. -/
theorem initConstructsAFreshInstance : Obligations.InitConstructsAFreshInstance := fun s =>
  ⟨rfl, performAction_command_init s, freshInstance s, rfl, rfl, by
    rw [show Reg.ofNumber 1 = .status from rfl, readReg, freshInstance_status, Status.atReset_toWord]
    rfl⟩

/-- Settles O44: the frames cut the padded message, whose length is a multiple of 64, and the first of them are the full
blocks of the message. -/
theorem paddingShape : Obligations.PaddingShape := by
  intro msg _
  have count := length_pad_eq_mul msg
  have length := length_pad msg
  have zeros := padZeros_cast msg.length
  refine ⟨⟨padZeros msg.length, by omega, zeros, by rw [pad, le64_mod]; rfl, length⟩, by omega, by omega, by omega,
    frames_length msg, fun f => length_of_mem_frames, flatten_frames msg, fun t ht => ?_⟩
  rw [frames_eq, List.getElem?_append_left (by simpa using ht), pieces_getElem? ht]

/-- Settles O45: the frames are the full blocks and the one or two frames assembled from the tail. -/
theorem extraFrameFromFiftySixOn : Obligations.ExtraFrameFromFiftySixOn := by
  intro msg full r tail suffix
  have ht : tail.length = r := length_tail msg
  have behind (k : Nat) : (frames msg)[full + k]? = (lastFrames tail suffix)[k]? := by
    rw [frames_eq, List.getElem?_append_right (by simp [full]), pieces_length, Nat.add_sub_cancel_left]
    rfl
  refine ⟨frames_length msg, fun h => ⟨?_, ?_⟩, fun h => ⟨?_, ?_, ?_⟩⟩
  · rw [frames_length]
    omega
  · rw [← Nat.add_zero full, behind, lastFrames_of_le (by omega), ht]
    rfl
  · rw [frames_length]
    omega
  · rw [← Nat.add_zero full, behind, lastFrames_of_lt (by omega), ht]
    rfl
  · rw [behind, lastFrames_of_lt (by omega)]
    rfl

/-- Settles O46: the suffix has 64 bits, which hold 8 * LEN for every LEN below 2^61. -/
theorem lengthSuffixIsTheWholeBitLength : Obligations.LengthSuffixIsTheWholeBitLength := by
  refine ⟨fun msg hmsg => ?_, fun msg hmsg => ?_⟩
  · obtain ⟨f, hf, hd⟩ := getLast?_frames msg
    refine ⟨f, hf, by rw [hd, le64_length], ?_⟩
    rw [hd, le64, leNat_leBytes, BitVec.toNat_ofNat]
    omega
  · obtain ⟨f, hf, hd⟩ := getLast?_frames msg
    refine ⟨f, hf, ?_⟩
    rw [hd, hmsg]
    decide

/-- Settles O48: the checks decide, the procedure chains the frames of the message from IV, and the examples are
evaluated. -/
theorem digestComputesTheMd5State : Obligations.DigestComputesTheMd5State := by
  refine ⟨fun i hi s hinv => ⟨fun hf hr => ?_, fun hf => ?_, fun hf hr => ?_⟩, by decide +kernel, by decide +kernel,
    by decide +kernel, by decide +kernel⟩
  · rw [exec_digest_ok hi hf (hinv hf) hr, finishDigest_eq]
    rfl
  · rw [exec_digest hi, digestH_state hf, raise_eq]
    rfl
  · rw [exec_digest hi, digestH_range hf hr, raise_eq]
    rfl

/-- Settles O49: both vectorized units compute `compress`, so the three commands run one procedure, which chains the
frames of the message. -/
theorem pathsAgreeFromEveryState : Obligations.PathsAgreeFromEveryState := by
  refine ⟨fun h blk _ => by rw [compressV_eq_compress], get_batch8, fun s =>
    ⟨exec_digest_path_irrelevant (by decide) (by decide) s, exec_digest_path_irrelevant (by decide) (by decide) s⟩,
    fun i hi s hf he hh hr => ?_⟩
  have hash : performAction (command .getHash) (finishDigest (md5state (message s)) s) =
      .next ((finishDigest (md5state (message s)) s).setOut (md5 (message s))) := by
    rw [performAction_command_of_not_err .getHash (by simpa using he), exec_getHash, finishDigest_h, md5]
  refine ⟨_, by rw [runActions_cons_next (performAction_digest hi hf he hh hr), runActions_cons_next hash, runActions],
    ?_, ?_⟩ <;> simp

/-- Settles O50: HEX is the string of the message's digest, and the three digests are evaluated. -/
theorem knownAnswersOfTheSource : Obligations.KnownAnswersOfTheSource := by
  intro ka hka i hi s hr hmsg
  obtain ⟨t, ht, hx⟩ := runActions_init_digest_getHex hi hr
  refine ⟨t, ht, ?_⟩
  rw [hx, message, srcAddr, lenBytes, hmsg]
  clear hmsg
  revert ka
  decide +kernel

end Sys2Proof.Machine
end

section
/-! SUPPORT. The write to CMD by its cases (R92, R277), and what stays while ERR = 1 (R273). -/

namespace Sys2Proof.Machine

variable {i : Instr} {w : Word} {s t : State}

/-- The ERR gate: with ERR = 1 a write of any word but INIT's does nothing (R273). -/
theorem writeCmd_of_err (hs : s.status.err = true) (hw : w ≠ encode .init) : writeCmd w s = .next s := by
  simp [writeCmd, hs, hw]

/-- A command word that the ERR gate lets pass executes its command (R92). -/
theorem writeCmd_encode (hg : s.status.err = false ∨ encode i = encode .init) :
    writeCmd (encode i) s = exec i s := by
  obtain hs | hw := hg
  · simp [writeCmd, hs]
  · obtain rfl := encode_injective hw
    simp [writeCmd]

/-- A command's effect raises nothing: ERR is 0 where it was 0, and INIT clears it (R241, R277). -/
theorem effect_err_eq_false (hg : s.status.err = false ∨ encode i = encode .init) :
    (effect i s).status.err = false := by
  obtain hs | hw := hg
  · obtain ⟨-, hst, -⟩ | ⟨-, hst⟩ | ⟨-, hst⟩ | ⟨hst, -⟩ := effect_status_h_cases i s <;> simp [hst, hs]
  · obtain rfl := encode_injective hw
    simp [effect]

/-- A failed range check names the bytes that lie past the end of MEM (R62). -/
theorem not_inRange_iff : ¬ inRange s i ↔ ∃ n, bytesRead s i = some n ∧ s.memSize < s.src.toNat + n := by
  simp [inRange]

/-- What an errored engine keeps until INIT or reset: ERR, the first ERRCODE, DONE, OUT and HEX (R273). -/
def State.KeepsError (s t : State) : Prop :=
  t.status.err = s.status.err ∧ t.status.errcode = s.status.errcode ∧ t.status.done = s.status.done ∧
    t.out = s.out ∧ t.hex = s.hex

theorem storeReg_keepsError (s : State) (v : DWord) (r : Reg) : s.KeepsError (storeReg s v r) := by
  cases r <;> simp [storeReg, State.KeepsError]

/-- While ERR = 1 every action but reset and INIT keeps the error and the results (R273). -/
theorem performAction_keepsError {a : HostAction} (hs : s.status.err = true) (h : performAction a s = .next t)
    (hinit : a ≠ command .init) (hreset : a ≠ .reset) : s.KeepsError t := by
  obtain ⟨rfl, -⟩ | ⟨n, -, rfl⟩ | ⟨addr, bytes, -, -, rfl⟩ | ⟨n, v, -, -, -, rfl⟩ | ⟨w, rfl, hw⟩ := performAction_cases h
  · exact absurd rfl hreset
  · simp [State.KeepsError]
  · simp [State.KeepsError]
  · exact storeReg_keepsError s v _
  · have hne : w ≠ encode .init := by
      rintro rfl
      exact hinit rfl
    rw [writeCmd_of_err hs hne] at hw
    cases hw
    simp [State.KeepsError]

end Sys2Proof.Machine
end

section
/-! The statements about errors (60_exceptions.md). -/

namespace Sys2Proof.Machine

/-- Settles O6: the gate holds the state, a word the decoder refuses is no command's, and a command past the gate is
decided by its state check, its range check and an effect that raises nothing. -/
theorem commandWriteOutcomesInPriorityOrder : Obligations.CommandWriteOutcomesInPriorityOrder := by
  refine fun w s => ⟨writeCmd_of_err, fun hg => ⟨fun hw => ?_, fun i hi => ?_⟩⟩
  · obtain ⟨e, hd⟩ := decode_eq_error_of_not_encoded hw
    exact writeCmd_of_decode_error (hg.resolve_right (hw .init)) hd
  · subst hi
    rw [writeCmd_encode hg]
    exact ⟨exec_of_stale, exec_of_not_inRange, fun hf hr =>
      ⟨rfl, effect i s, exec_of_inRange hf hr, effect_err_eq_false hg⟩⟩

/-- Settles O7: the gate holds the state, the other accesses do not look at ERR, every action but INIT and reset keeps
the error and the results, and these two leave the reset STATUS. -/
theorem erroredEngineIsQuiescent : Obligations.ErroredEngineIsQuiescent := by
  refine fun s hs => ⟨fun w hw => (performAction_cmd w s).trans (writeCmd_of_err hs hw), fun n => rfl,
    fun n v hr hf => performAction_wr hf hr, fun a t h hinit hreset => ?_, fun t h => ?_⟩
  · obtain ⟨herr, kept⟩ := performAction_keepsError hs h hinit hreset
    exact ⟨herr.trans hs, kept⟩
  · have hst : t.status = Status.atReset :=
      h.elim (status_of_performAction_reset_or_init (.inr rfl)) (status_of_performAction_reset_or_init (.inl rfl))
    rw [hst]
    exact ⟨Status.atReset_err, Status.atReset_errcode⟩

/-- Settles O8: a write that raises ends in `raise` with the cause that the decoder, the state check or the range check
found; the gate and an effect raise nothing. -/
theorem raisingChangesOnlyErrAndErrcode : Obligations.RaisingChangesOnlyErrAndErrcode := by
  intro w s t h hs ht
  obtain ⟨hs', -⟩ | ⟨-, ⟨e, hd⟩, hw⟩ | ⟨-, i, hd, hw⟩ := writeCmd_cases w s
  · simp [hs] at hs'
  · rw [hw] at h
    cases h
    refine ⟨rfl, .inl ⟨rfl, ?_⟩⟩
    rintro i rfl
    simp at hd
  · have hi : w = encode i := eq_encode_of_decode hd
    rw [hw] at h
    obtain ⟨hdig, hf, he⟩ | ⟨-, hr, he⟩ | ⟨-, -, he⟩ := exec_cases i s <;> rw [he] at h <;> cases h
    · exact ⟨rfl, .inr (.inl ⟨rfl, i, hi, hdig, hf⟩)⟩
    · obtain ⟨n, hn, hlt⟩ := not_inRange_iff.1 hr
      exact ⟨rfl, .inr (.inr ⟨rfl, i, n, hi, hn, hlt⟩)⟩
    · simp [effect_err_eq_false (.inl hs)] at ht

end Sys2Proof.Machine
end

section
/-! SUPPORT. What one action of the host does to OUT and HEX (R42, R43, R309). -/

namespace Sys2Proof.Machine

variable {a : HostAction} {s t : State}

/-- The four classes of commands by what they do to OUT and HEX (R42, R43). -/
theorem effect_out_hex_cases (i : Instr) (s : State) :
    (i = .init ∧ (effect i s).out = List.replicate 16 0x00 ∧ (effect i s).hex = List.replicate 32 0x00) ∨
    (i = .getHash ∧ (effect i s).out = digestBytes s.h ∧ (effect i s).hex = s.hex) ∨
    (i = .getHex ∧ (effect i s).out = s.out ∧ (effect i s).hex = hexString (digestBytes s.h)) ∨
    ((effect i s).out = s.out ∧ (effect i s).hex = s.hex) := by
  cases i
  case init => exact .inl ⟨rfl, freshInstance_out s, freshInstance_hex s⟩
  case getHash => exact .inr (.inl ⟨rfl, State.setOut_out s _, State.setOut_hex s _⟩)
  case getHex => exact .inr (.inr (.inl ⟨rfl, State.setHex_out s _, State.setHex_hex s _⟩))
  all_goals exact .inr (.inr (.inr (by simp [effect])))

/-- What the action `a` from `s` to `t` did to OUT and HEX (R309). -/
inductive SnapshotEffect (a : HostAction) (s t : State) : Prop
  /-- Reset or INIT. -/
  | cleared (ha : a = .reset ∨ a = command .init) (ho : t.out = List.replicate 16 0x00)
      (hx : t.hex = List.replicate 32 0x00)
  /-- A GETHASH that was executed. -/
  | tookOut (ha : a = command .getHash) (ho : t.out = digestBytes s.h) (hx : t.hex = s.hex)
  /-- A GETHEX that was executed. -/
  | tookHex (ha : a = command .getHex) (ho : t.out = s.out) (hx : t.hex = hexString (digestBytes s.h))
  /-- Any other action. -/
  | kept (ho : t.out = s.out) (hx : t.hex = s.hex)

theorem writeCmd_snapshotEffect {w : Word} (h : writeCmd w s = .next t) :
    SnapshotEffect (.wr 0 (w.setWidth 64)) s t := by
  obtain ⟨-, -, e⟩ | ⟨-, -, e⟩ | ⟨-, i, hd, e⟩ := writeCmd_cases w s <;> rw [e] at h
  · cases h
    exact .kept rfl rfl
  · cases h
    exact .kept (raise_out s _) (raise_hex s _)
  · obtain rfl := eq_encode_of_decode hd
    obtain ⟨c, rfl⟩ | rfl := exec_raises_or_effect h
    · exact .kept (raise_out s c) (raise_hex s c)
    obtain ⟨rfl, ho, hx⟩ | ⟨rfl, ho, hx⟩ | ⟨rfl, ho, hx⟩ | ⟨ho, hx⟩ := effect_out_hex_cases i s
    · exact .cleared (.inr rfl) ho hx
    · exact .tookOut rfl ho hx
    · exact .tookHex rfl ho hx
    · exact .kept ho hx

/-- Everything one action can do to OUT and HEX. -/
theorem performAction_snapshotEffect (h : performAction a s = .next t) : SnapshotEffect a s t := by
  obtain ⟨rfl, rfl⟩ | ⟨n, -, rfl⟩ | ⟨addr, bytes, -, -, rfl⟩ | ⟨n, v, -, -, -, rfl⟩ | ⟨w, rfl, hw⟩ :=
    performAction_cases h
  · exact .cleared (.inl rfl) (resetEngine_out s) (resetEngine_hex s)
  · exact .kept (State.pushOutput_out s _) (State.pushOutput_hex s _)
  · exact .kept (State.setMem_out s _) (State.setMem_hex s _)
  · obtain ⟨-, -, -, ho, hx⟩ := storeReg_keepsError s v (Reg.ofNumber n)
    exact .kept ho hx
  · exact writeCmd_snapshotEffect hw

/-- OUT after an action that is neither reset, INIT nor GETHASH is OUT before it. -/
theorem out_kept (h : performAction a s = .next t) (hreset : a ≠ .reset) (hinit : a ≠ command .init)
    (hget : a ≠ command .getHash) : t.out = s.out := by
  cases performAction_snapshotEffect h with
  | cleared ha => exact absurd ha (by simp [hreset, hinit])
  | tookOut ha => exact absurd ha hget
  | tookHex _ ho => exact ho
  | kept ho => exact ho

/-- HEX after an action that is neither reset, INIT nor GETHEX is HEX before it. -/
theorem hex_kept (h : performAction a s = .next t) (hreset : a ≠ .reset) (hinit : a ≠ command .init)
    (hget : a ≠ command .getHex) : t.hex = s.hex := by
  cases performAction_snapshotEffect h with
  | cleared ha => exact absurd ha (by simp [hreset, hinit])
  | tookOut _ _ hx => exact hx
  | tookHex ha => exact absurd ha hget
  | kept _ hx => exact hx

/-- Reset and INIT write zeros to OUT and HEX (R42, R43). -/
theorem out_hex_of_performAction_reset_or_init (ha : a = .reset ∨ a = command .init)
    (h : performAction a s = .next t) : t.out = List.replicate 16 0x00 ∧ t.hex = List.replicate 32 0x00 := by
  obtain rfl | rfl := ha
  · rw [performAction_reset] at h
    cases h
    exact ⟨resetEngine_out s, resetEngine_hex s⟩
  · rw [performAction_command_init] at h
    cases h
    exact ⟨freshInstance_out s, freshInstance_hex s⟩

end Sys2Proof.Machine
end

section
/-! The statement about the snapshots of the digest (70_reset_and_hazards.md). -/

namespace Sys2Proof.Machine

/-- Settles O18: forward through GETHASH, GETHEX, reset and INIT, and by the cases of an action for what keeps OUT and
HEX. -/
theorem outAndHexAreSnapshots : Obligations.OutAndHexAreSnapshots := by
  refine fun a s t h => ⟨?_, ?_, fun ha => out_hex_of_performAction_reset_or_init ha h,
    fun hreset hinit => ⟨out_kept h hreset hinit, hex_kept h hreset hinit⟩⟩
  · rintro rfl hs
    rw [performAction_command_of_not_err .getHash hs, exec_getHash] at h
    cases h
    exact State.setOut_out s _
  · rintro rfl hs
    rw [performAction_command_of_not_err .getHex hs, exec_getHex] at h
    cases h
    exact State.setHex_hex s _

end Sys2Proof.Machine
end

section
/-! SUPPORT. What every command, every write to CMD and every action of the host leaves in place (R39, R40, R41, R79,
R99), and that MEM changes by a host write inside it only. -/

namespace Sys2Proof.Machine

variable {a : HostAction} {i : Instr} {s t : State}

/-- The operand registers, MEM, MEM_SIZE and the host's side are the same in both states. -/
def State.KeepsOperands (s t : State) : Prop :=
  t.src = s.src ∧ t.len = s.len ∧ t.nblk = s.nblk ∧ t.memSize = s.memSize ∧ t.mem = s.mem ∧
    t.pending = s.pending ∧ t.index = s.index ∧ t.outputs = s.outputs

theorem raise_keepsOperands (e : Cause) (s : State) : s.KeepsOperands (raise e s) := by
  simp [State.KeepsOperands]

theorem effect_keepsOperands (i : Instr) (s : State) : s.KeepsOperands (effect i s) := by
  cases i <;> simp [effect, State.KeepsOperands]

/-- No command writes SRC, LEN, NBLK, MEM or the host's side. -/
theorem exec_keepsOperands (h : exec i s = .next t) : s.KeepsOperands t := by
  obtain ⟨e, rfl⟩ | rfl := exec_raises_or_effect h
  · exact raise_keepsOperands e s
  · exact effect_keepsOperands i s

theorem writeCmd_keepsOperands {w : Word} (h : writeCmd w s = .next t) : s.KeepsOperands t := by
  obtain ⟨-, -, e⟩ | ⟨-, -, e⟩ | ⟨-, i, -, e⟩ := writeCmd_cases w s <;> rw [e] at h
  · cases h
    simp [State.KeepsOperands]
  · cases h
    exact raise_keepsOperands _ s
  · exact exec_keepsOperands h

theorem storeReg_mem_memSize (s : State) (v : DWord) (r : Reg) :
    (storeReg s v r).mem = s.mem ∧ (storeReg s v r).memSize = s.memSize := by
  cases r <;> simp [storeReg]

/-- An action keeps MEM_SIZE, and it keeps MEM or writes bytes inside it (R49, R79, R99). -/
theorem performAction_mem_cases (h : performAction a s = .next t) :
    t.memSize = s.memSize ∧ (t.mem = s.mem ∨
      ∃ addr bytes, addr + bytes.length ≤ s.memSize ∧ t.mem = memWrite s.mem addr bytes) := by
  obtain ⟨-, rfl⟩ | ⟨n, -, rfl⟩ | ⟨addr, bytes, -, hb, rfl⟩ | ⟨n, v, -, -, -, rfl⟩ | ⟨w, -, hw⟩ :=
    performAction_cases h
  · simp
  · simp
  · exact ⟨State.setMem_memSize s _, .inr ⟨addr, bytes, hb, State.setMem_mem s _⟩⟩
  · obtain ⟨hm, hn⟩ := storeReg_mem_memSize s v (Reg.ofNumber n)
    exact ⟨hn, .inl hm⟩
  · obtain ⟨-, -, -, hn, hm, -⟩ := writeCmd_keepsOperands hw
    exact ⟨hn, .inl hm⟩

end Sys2Proof.Machine
end

section
/-! SUPPORT. Every action keeps the invariant, so every run and every step of the machine does. -/

namespace Sys2Proof.Machine

variable {a : HostAction} {i : Instr} {s t : State} {st : Status}

/-! ### The combinations of STATUS that can occur (95_test_vectors.md section 9) -/

/-- What `Status.legal` says, condition by condition. -/
theorem Status.legal_iff : st.legal = true ↔
    ¬ (st.fresh = true ∧ st.done = true) ∧ (st.err = true ↔ st.errcode ≠ 0) ∧ st.errcode ≤ 3 ∧
      ¬ (st.errcode = 2 ∧ st.fresh = true) := by
  obtain ⟨fresh, done, err, code⟩ := st
  cases fresh <;> cases done <;> cases err <;> simp [Status.legal, and_assoc]

theorem Status.atReset_legal : Status.atReset.legal = true := by decide

theorem Status.clearFresh_legal (h : st.legal = true) : st.clearFresh.legal = true := by
  obtain ⟨-, herr, hmax, -⟩ := Status.legal_iff.1 h
  exact Status.legal_iff.2 ⟨by simp, herr, hmax, by simp⟩

theorem Status.digestDone_legal (h : st.legal = true) : st.digestDone.legal = true := by
  obtain ⟨-, herr, hmax, -⟩ := Status.legal_iff.1 h
  exact Status.legal_iff.2 ⟨by simp, herr, hmax, by simp⟩

/-- The three codes lie in 1 .. 3, and only E_STATE has code 2 (R271). -/
theorem Cause.code_bounds (e : Cause) : e.code ≠ 0 ∧ e.code ≤ 3 ∧ (e.code = 2 → e = .state) := by
  cases e <;> decide

/-- E_STATE is legal where FRESH is 0, the other causes everywhere (R275). -/
theorem Status.raised_legal (h : st.legal = true) {e : Cause} (he : e = .state → st.fresh = false) :
    (st.raised e).legal = true := by
  obtain ⟨hfd, -⟩ := Status.legal_iff.1 h
  obtain ⟨hne, hmax, hstate⟩ := e.code_bounds
  exact Status.legal_iff.2 ⟨hfd, iff_of_true rfl hne, hmax, fun ⟨hc, hf⟩ => by simp [he (hstate hc)] at hf⟩

theorem exec_keepsLegal (hs : s.status.legal = true) (h : exec i s = .next t) : t.status.legal = true := by
  obtain ⟨-, hf, e⟩ | ⟨-, -, e⟩ | ⟨-, -, e⟩ := exec_cases i s <;> rw [e] at h <;> cases h
  · exact Status.raised_legal hs fun _ => hf
  · exact Status.raised_legal hs (by simp)
  · obtain ⟨-, hst, -⟩ | ⟨-, hst⟩ | ⟨-, hst⟩ | ⟨hst, -⟩ := effect_status_h_cases i s <;> rw [hst]
    · exact Status.atReset_legal
    · exact Status.clearFresh_legal hs
    · exact Status.digestDone_legal hs
    · exact hs

theorem writeCmd_keepsLegal {w : Word} (hs : s.status.legal = true) (h : writeCmd w s = .next t) :
    t.status.legal = true := by
  obtain ⟨-, -, e⟩ | ⟨-, -, e⟩ | ⟨-, i, -, e⟩ := writeCmd_cases w s <;> rw [e] at h
  · cases h
    exact hs
  · cases h
    exact Status.raised_legal hs (by simp)
  · exact exec_keepsLegal hs h

theorem performAction_keepsLegal (hs : s.status.legal = true) (h : performAction a s = .next t) :
    t.status.legal = true := by
  obtain ⟨-, rfl⟩ | ⟨n, -, rfl⟩ | ⟨addr, bytes, -, -, rfl⟩ | ⟨n, v, -, -, -, rfl⟩ | ⟨w, -, hw⟩ :=
    performAction_cases h
  · exact Status.atReset_legal
  · exact hs
  · exact hs
  · obtain ⟨k, -, hst⟩ | ⟨hst, -⟩ := storeReg_status_h_cases s v (Reg.ofNumber n) <;> rw [hst]
    · exact Status.clearFresh_legal hs
    · exact hs
  · exact writeCmd_keepsLegal hs hw

/-! ### The other parts -/

theorem hexLegal_hexString_digestBytes (q : Quad) : hexLegal (hexString (digestBytes q)) = true := by
  have digits : (hexString (digestBytes q)).all isHexCode = true :=
    List.all_eq_true.2 fun c => isHexCode_of_mem_hexString
  simp [hexLegal, digits]

/-- OUT keeps its sixteen bytes, and HEX stays zeros or hexadecimal characters (R42, R43). -/
theorem performAction_keepsSnapshots (ho : s.out.length = 16) (hx : hexLegal s.hex = true)
    (h : performAction a s = .next t) : t.out.length = 16 ∧ hexLegal t.hex = true := by
  cases performAction_snapshotEffect h with
  | cleared _ ho' hx' => rw [ho', hx']; decide
  | tookOut _ ho' hx' => rw [ho', hx']; exact ⟨digestBytes_length s.h, hx⟩
  | tookHex _ ho' hx' => rw [ho', hx']; exact ⟨ho, hexLegal_hexString_digestBytes s.h⟩
  | kept ho' hx' => rw [ho', hx']; exact ⟨ho, hx⟩

/-- Memory stays canonical and inside MEM_SIZE. -/
theorem performAction_keepsMemory (hwf : Memory.wf s.mem = true) (hin : Memory.within s.memSize s.mem = true)
    (h : performAction a s = .next t) : Memory.wf t.mem = true ∧ Memory.within t.memSize t.mem = true := by
  obtain ⟨hn, hm | ⟨addr, bytes, hb, hm⟩⟩ := performAction_mem_cases h <;> rw [hn, hm]
  · exact ⟨hwf, hin⟩
  · exact ⟨Memory.wf_memWrite hwf addr bytes, Memory.within_memWrite hin hb⟩

/-! ### The invariant, along a run and a step -/

theorem performAction_keepsInv (hs : s.Inv) (h : performAction a s = .next t) : t.Inv := by
  obtain ⟨hiv, hlegal, hout, hhex, hwf, hin, hmax⟩ := hs
  obtain ⟨hout', hhex'⟩ := performAction_keepsSnapshots hout hhex h
  obtain ⟨hwf', hin'⟩ := performAction_keepsMemory hwf hin h
  exact ⟨h_eq_iv_of_fresh h hiv, performAction_keepsLegal hlegal h, hout', hhex', hwf', hin',
    (performAction_mem_cases h).1 ▸ hmax⟩

/-- A run of at least one action that completes: its first action, then the others. -/
theorem runActions_cons_eq_next {rest : List HostAction} (h : runActions (a :: rest) s = .next t) :
    ∃ u, performAction a s = .next u ∧ runActions rest u = .next t := by
  cases ha : performAction a s with
  | next u => exact ⟨u, rfl, runActions_cons_next ha ▸ h⟩
  | fault r => simp [runActions, ha] at h
  | refused r => simp [runActions, ha] at h

theorem runActions_keepsInv {actions : List HostAction} (hs : s.Inv) (h : runActions actions s = .next t) : t.Inv := by
  induction actions generalizing s with
  | nil => cases h; exact hs
  | cons a rest ih =>
    obtain ⟨u, ha, hrest⟩ := runActions_cons_eq_next h
    exact ih (performAction_keepsInv hs ha) hrest

/-- With no action left a step holds the state (R287, log entry 5). -/
theorem step_of_pending_nil (hp : s.pending = []) : step s = .next s := by
  rw [step, takeAction, hp]

/-- A step takes the next action of the list and performs it (R102). -/
theorem step_of_pending_cons {rest : List HostAction} (hp : s.pending = a :: rest) :
    step s = performAction a (s.popAction rest) := by
  rw [step, takeAction, hp]

end Sys2Proof.Machine
end

section
/-! The statements about the invariant (10_state.md, 95_test_vectors.md section 9). -/

namespace Sys2Proof.Machine

/-- Settles O21: taking an action from the list touches no part of the invariant, and performing it keeps each part. -/
theorem stepKeepsTheInvariant : Obligations.StepKeepsTheInvariant := by
  intro s t hs h
  cases hp : s.pending with
  | nil =>
    rw [step_of_pending_nil hp] at h
    cases h
    exact hs
  | cons a rest =>
    rw [step_of_pending_cons hp] at h
    exact performAction_keepsInv (s := s.popAction rest) hs h

/-- Settles O22: the legal combinations of the four fields are evaluated. -/
theorem statusValuesThatCanOccur : Obligations.StatusValuesThatCanOccur := by
  have legal : ∀ (fresh done err : Bool) (code : BitVec 4), Status.legal ⟨fresh, done, err, code⟩ = true →
      Status.toWord ⟨fresh, done, err, code⟩ ∈
        ([0x00, 0x01, 0x02, 0x14, 0x15, 0x16, 0x24, 0x26, 0x34, 0x35, 0x36] : List Word) := by decide
  exact fun s ⟨_, hlegal, _⟩ => legal _ _ _ _ hlegal

/-- Settles O20: each part of the invariant is evaluated on the reset values. -/
theorem resetMeetsTheInvariant : Obligations.ResetMeetsTheInvariant :=
  ⟨fun _ => rfl, Status.atReset_legal, by decide, by decide, by decide, by decide, by decide⟩

/-- Settles O11: a command raises an error or has its effect, and neither writes an operand, MEM or the host's side. -/
theorem commandsKeepOperandsAndMemory : Obligations.CommandsKeepOperandsAndMemory := by
  intro i s t h
  obtain ⟨hsrc, hlen, hnblk, hsize, hmem, hhost⟩ := exec_keepsOperands h
  exact ⟨hsrc, hlen, hnblk, hsize, fun a => by rw [hmem], hhost⟩

end Sys2Proof.Machine
end

section
/-! SUPPORT. Message memory read by read: what a write of a byte list stores, and that the bytes determine a canonical
memory. -/

namespace Sys2Proof.Machine

variable {m : List Host.Cell}

/-- A read after a write of a byte list (R14, R99). -/
theorem Memory.read_memWrite (hm : Memory.wf m = true) (addr : Nat) (bytes : List Byte) (a : Nat) :
    Memory.read (memWrite m addr bytes) a =
      if addr ≤ a ∧ a < addr + bytes.length then bytes.getD (a - addr) 0 else Memory.read m a := by
  induction bytes generalizing m addr with
  | nil => rw [memWrite, if_neg (by simp)]
  | cons b bs ih =>
    rw [memWrite, ih (Memory.wf_write hm addr b), Memory.read_write hm, List.length_cons]
    obtain h | rfl | h : a < addr ∨ a = addr ∨ addr < a := by omega
    · rw [if_neg (by omega), if_neg (by omega), if_neg (by omega)]
    · rw [if_neg (by omega), if_pos rfl, if_pos (by omega), Nat.sub_self, List.getD_cons_zero]
    · rw [show a - addr = a - (addr + 1) + 1 by omega, List.getD_cons_succ]
      by_cases hin : a < addr + (bs.length + 1)
      · rw [if_pos (by omega), if_pos (by omega)]
      · rw [if_neg (by omega), if_neg (by omega), if_neg (by omega)]

/-- Below its first listed address a memory reads as unwritten. -/
theorem Memory.read_of_lt {low x : Nat} (hm : Memory.wfFrom low m = true) (hx : x < low) :
    Memory.read m x = Config.unwrittenByte := by
  simpa [Memory.cons] using Memory.read_cons x Config.unwrittenByte m x (Memory.wfFrom_mono hx hm)

/-- A canonical memory with a listed cell: the cell's address and byte, and the canonical rest above it. -/
theorem Memory.wfFrom_cons_iff {low a : Nat} {v : Byte} :
    Memory.wfFrom low ((a, v) :: m) = true ↔
      low ≤ a ∧ v ≠ Config.unwrittenByte ∧ Memory.wfFrom (a + 1) m = true := by
  simp [Memory.wfFrom, and_assoc]

theorem Memory.read_head (b : Nat) (x : Byte) (m : List Host.Cell) : Memory.read ((b, x) :: m) b = x := if_pos rfl

/-- A canonical memory with the same contents does not begin above a listed byte. -/
theorem Memory.le_of_read_cons_eq {m' : List Host.Cell} {low b : Nat} {x : Byte} (hm' : Memory.wfFrom low m' = true)
    (hx : x ≠ Config.unwrittenByte) (h : ∀ a, Memory.read ((b, x) :: m) a = Memory.read m' a) : low ≤ b := by
  by_contra hlt
  exact hx (by rw [← Memory.read_head b x m, h b, Memory.read_of_lt hm' (by omega)])

/-- The bytes determine a canonical memory: both list the same first cell, and the rest follows by induction. -/
theorem Memory.eq_of_read_eq {m' : List Host.Cell} {low low' : Nat} (hm : Memory.wfFrom low m = true)
    (hm' : Memory.wfFrom low' m' = true) (h : ∀ a, Memory.read m a = Memory.read m' a) : m = m' := by
  induction m generalizing low low' m' with
  | nil =>
    obtain _ | ⟨⟨b, x⟩, m'⟩ := m'
    · rfl
    · obtain ⟨-, hx, -⟩ := Memory.wfFrom_cons_iff.1 hm'
      exact absurd (by rw [← Memory.read_head b x m', ← h b, Memory.read]) hx
  | cons c m ih =>
    obtain ⟨b, x⟩ := c
    obtain ⟨-, hx, hrest⟩ := Memory.wfFrom_cons_iff.1 hm
    obtain _ | ⟨⟨b', x'⟩, m'⟩ := m'
    · exact absurd (by rw [← Memory.read_head b x m, h b, Memory.read]) hx
    · obtain ⟨-, hx', hrest'⟩ := Memory.wfFrom_cons_iff.1 hm'
      have hle : b' ≤ b := Memory.le_of_read_cons_eq (Memory.wfFrom_cons_iff.2 ⟨le_rfl, hx', hrest'⟩) hx h
      have hge : b ≤ b' := Memory.le_of_read_cons_eq (Memory.wfFrom_cons_iff.2 ⟨le_rfl, hx, hrest⟩) hx'
        fun a => (h a).symm
      obtain rfl : b = b' := by omega
      have hhead : x = x' := by rw [← Memory.read_head b x m, h b, Memory.read_head]
      have htail : m = m' := ih hrest hrest' fun a => by
        by_cases ha : a ≤ b
        · rw [Memory.read_of_lt hrest (by omega), Memory.read_of_lt hrest' (by omega)]
        · have := h a
          rwa [Memory.read, Memory.read, if_neg (by omega), if_neg (by omega)] at this
      rw [hhead, htail]

end Sys2Proof.Machine
end

section
/-! The statements about message memory as the host writes it (20_memory.md, 30_encoding.md section 5). -/

namespace Sys2Proof.Machine

/-- Settles O23: the range decides, and the write stores each byte at its own address. -/
theorem hostMemoryWriteStoresItsBytes : Obligations.HostMemoryWriteStoresItsBytes := by
  refine fun s addr bytes hm =>
    ⟨fun h => ⟨memWrite s.mem addr bytes, ?_, Memory.read_memWrite hm addr bytes⟩, fun h => ?_⟩
  · simp [performAction, HostAction.rangeFits, h, setMem_eq]
  · simp [performAction, HostAction.rangeFits, h]

/-- Settles O24: two canonical lists with the same contents begin with the same cell, and so down the lists. -/
theorem equalContentsAreEqualMemories : Obligations.EqualContentsAreEqualMemories :=
  fun _ _ hm hm' h => Memory.eq_of_read_eq hm hm' h

end Sys2Proof.Machine
end

section
/-! SUPPORT. The host's register numbers (R44): which registers a number reaches, what a write stores, and what a read
returns after it. -/

namespace Sys2Proof.Machine

variable {s t : State} {n : Nat} {v : DWord} {r r' : Reg}

/-! ### Numbers -/

/-- No two numbers reach one register. -/
theorem Reg.ofNumber_ne {m : Nat} (hr : Reg.ofNumber n ≠ .unassigned) (h : m ≠ n) :
    Reg.ofNumber m ≠ Reg.ofNumber n :=
  by
  intro e
  have hm := Reg.number_ofNumber (n := m) (e ▸ hr)
  rw [e, Reg.number_ofNumber hr] at hm
  exact h hm.symm

/-- The registers that a host write can change. -/
def Reg.writable : Reg → Bool
  | .src | .len | .nblk | .h _ | .hs _ _ => true
  | .cmd | .status | .out _ | .hex _ | .unassigned => false

theorem Reg.writable_ofNumber_iff (n : Nat) :
    (Reg.ofNumber n).writable = true ↔ (2 ≤ n ∧ n ≤ 4) ∨ (8 ≤ n ∧ n < 12) ∨ (16 ≤ n ∧ n < 48) := by
  unfold Reg.ofNumber
  split_ifs <;> simp [Reg.writable] <;> omega

theorem Reg.takesWord_ofNumber_iff (n : Nat) :
    (Reg.ofNumber n).takesWord = true ↔ n = 0 ∨ (8 ≤ n ∧ n < 12) ∨ (16 ≤ n ∧ n < 48) := by
  unfold Reg.ofNumber
  split_ifs <;> simp [Reg.takesWord] <;> omega

theorem Reg.ofNumber_eq_cmd_iff (n : Nat) : Reg.ofNumber n = .cmd ↔ n = 0 := by
  unfold Reg.ofNumber
  split_ifs <;> simp <;> omega

/-! ### Writes -/

theorem HostAction.valueFits_iff : HostAction.valueFits n v = true ↔
    ((Reg.ofNumber n).takesWord = true → v.toNat < 2 ^ 32) := by
  cases h : (Reg.ofNumber n).takesWord <;> simp [HostAction.valueFits, h]

/-- A write that completes, to any register but CMD, stores its value (R44). -/
theorem eq_storeReg_of_performAction_wr (h : performAction (.wr n v) s = .next t) (hr : Reg.ofNumber n ≠ .cmd) :
    HostAction.valueFits n v = true ∧ t = storeReg s v (Reg.ofNumber n) := by
  have hf : HostAction.valueFits n v = true := by
    by_contra hf
    simp [performAction, writeReg, hf] at h
  rw [performAction_wr hf hr] at h
  cases h
  exact ⟨hf, rfl⟩

/-- Read-only registers and unassigned numbers ignore a write. -/
theorem storeReg_of_not_writable (hr : r.writable = false) (s : State) (v : DWord) : storeReg s v r = s := by
  cases r
  case src | len | nblk | h | hs => cases hr
  all_goals rfl

theorem performAction_wr_ignored (hw : (Reg.ofNumber n).writable = false) (h0 : n ≠ 0) (v : DWord) (s : State) :
    performAction (.wr n v) s = .next s := by
  have hcmd : Reg.ofNumber n ≠ .cmd := mt (Reg.ofNumber_eq_cmd_iff n).1 h0
  have hf : HostAction.valueFits n v = true := by
    cases hr : Reg.ofNumber n
    case cmd => exact absurd hr hcmd
    case h | hs => simp [hr, Reg.writable] at hw
    all_goals simp [HostAction.valueFits, hr, Reg.takesWord]
  rw [performAction_wr hf hcmd, storeReg_of_not_writable hw]

/-- A host write of a word to HS[n][k] (R44). -/
theorem performAction_wr_hs (n : Fin 8) (k : Fin 4) (w : Word) (s : State) :
    performAction (.wr (Reg.number (.hs n k)) (w.setWidth 64)) s =
      .next (s.setHs (s.hs.set n ((s.hs.get n).set k w))) := by
  rw [performAction_wr (HostAction.valueFits_word _ w) (by simp), Reg.ofNumber_number, storeReg]
  simp

/-- The last of two writes to one stream counts. -/
theorem Bank.set_set (b : Bank) (n : Fin 8) (p q : Quad) : (b.set n p).set n q = b.set n q :=
  Bank.ext_get fun t => by
    rw [Bank.get_set, Bank.get_set, Bank.get_set]
    split <;> rfl

/-- LDHS writes one stream of the bank (R100). -/
theorem runActions_asmLdhs (n : Fin 8) (q : Quad) (s : State) :
    runActions (asmLdhs n q) s = .next (s.setHs (s.hs.set n q)) := by
  rw [asmLdhs, runActions_cons_next (performAction_wr_hs n 0 q.a s),
    runActions_cons_next (performAction_wr_hs n 1 q.b _), runActions_cons_next (performAction_wr_hs n 2 q.c _),
    runActions_cons_next (performAction_wr_hs n 3 q.d _), runActions]
  simp only [State.setHs_hs, Bank.get_set_same, Bank.set_set]
  rfl

/-- A value too wide for a 32-bit register stops the run (log entry 6). -/
theorem performAction_wr_tooWide (hr : (Reg.ofNumber n).takesWord = true) (hv : 2 ^ 32 ≤ v.toNat) (s : State) :
    performAction (.wr n v) s = .fault .hostValueTooWide := by
  have hf : ¬ HostAction.valueFits n v = true := by
    rw [HostAction.valueFits_iff]
    exact fun h => absurd (h hr) (by omega)
  simp [performAction, writeReg, hf]

/-! ### A read after a write -/

theorem setWidth_setWidth_of_lt (hv : v.toNat < 2 ^ 32) : (v.setWidth 32).setWidth 64 = v := by
  apply BitVec.eq_of_toNat_eq
  rw [BitVec.toNat_setWidth, BitVec.toNat_setWidth, Nat.mod_eq_of_lt hv, Nat.mod_eq_of_lt v.isLt]

theorem readReg_storeReg_same (hw : r.writable = true) (hv : r.takesWord = true → v.toNat < 2 ^ 32) :
    readReg (storeReg s v r) r = v := by
  cases r
  case src | len | nblk => rfl
  case h k => simp [storeReg, readReg, setWidth_setWidth_of_lt (hv rfl)]
  case hs n k => simp [storeReg, readReg, setWidth_setWidth_of_lt (hv rfl)]
  all_goals cases hw

/-- A word of the bank other than the one written. -/
theorem get_get_set_ne (b : Bank) {n n' : Fin 8} {k k' : Fin 4} (h : ¬ (n' = n ∧ k' = k)) (w : Word) :
    ((b.set n ((b.get n).set k w)).get n').get k' = (b.get n').get k' := by
  by_cases hn : n' = n
  · subst hn
    rw [Bank.get_set_same, Quad.get_set_ne _ fun hk => h ⟨rfl, hk⟩]
  · rw [Bank.get_set_ne b hn]

/-- A write changes no other register than its own, and FRESH in STATUS (R35, R44). -/
theorem readReg_storeReg_ne (hr : r' ≠ r) (hst : r' ≠ .status) : readReg (storeReg s v r) r' = readReg s r' := by
  cases r
  case cmd | status | out | hex | unassigned => rfl
  case src | len | nblk => cases r' <;> simp_all [storeReg, readReg]
  case h k =>
    cases r'
    case h k' => rw [storeReg, readReg, writeH_h, Quad.get_set_ne _ fun hk => hr (by rw [hk]), readReg]
    all_goals simp_all [storeReg, readReg]
  case hs n k =>
    cases r'
    case hs n' k' =>
      rw [storeReg, readReg, State.setHs_hs, get_get_set_ne s.hs fun ⟨hn, hk⟩ => hr (by rw [hn, hk]), readReg]
    all_goals simp_all [storeReg, readReg]

end Sys2Proof.Machine
end

section
/-! The statements about host access to the registers (10_state.md section 7). -/

namespace Sys2Proof.Machine

/-- Settles O13: each number is a register's own number, and a register image is read as little-endian words. -/
theorem hostReadsByNumber : Obligations.HostReadsByNumber := by
  have number (s : State) (r : Reg) : readReg s (Reg.ofNumber r.number) = readReg s r := by rw [Reg.ofNumber_number]
  have image (bs : List Byte) (n : Nat) : ((wordAt bs n).setWidth 64).toNat = (wordAt bs n).toNat :=
    BitVec.toNat_setWidth_of_le (by decide)
  refine fun s => ⟨fun n => rfl, rfl, rfl, rfl, rfl, rfl, fun k => number s (.h k), fun n k => number s (.hs n k),
    fun n hn => ?_, fun n hn => ?_, fun n hn => ?_⟩
  · rw [← toNat_wordAt, ← image]
    exact congrArg BitVec.toNat (number s (.out ⟨n, hn⟩))
  · rw [← toNat_wordAt, ← image]
    exact congrArg BitVec.toNat (number s (.hex ⟨n, hn⟩))
  · rw [(Reg.ofNumber_eq_unassigned_iff n).2 hn, readReg]

/-- Settles O14: a write stores what `storeReg` says, unless its register ignores it or its value is too wide. -/
theorem hostWritesByNumber : Obligations.HostWritesByNumber := by
  refine fun s v => ⟨rfl, rfl, rfl, fun n hn => ?_, fun hv => ⟨fun k => ?_, fun n k => ?_⟩, fun hv n hn => ?_⟩
  · refine performAction_wr_ignored (Bool.eq_false_iff.2 (mt (Reg.writable_ofNumber_iff n).1 ?_)) ?_ v s <;> omega
  · rw [← setWidth_setWidth_of_lt hv]
    exact (performAction_wr_h k _ s).trans (by simp [writeH_eq])
  · rw [← setWidth_setWidth_of_lt hv]
    exact (performAction_wr_hs n k _ s).trans (by simp [setHs_eq])
  · exact performAction_wr_tooWide ((Reg.takesWord_ofNumber_iff n).2 hn) hv s

/-- Settles O15: a completed write is `storeReg`, read back at its own register and at another one's. -/
theorem registerReadAfterWrite : Obligations.RegisterReadAfterWrite := by
  intro s t n v hn h
  have hw : (Reg.ofNumber n).writable = true := (Reg.writable_ofNumber_iff n).2 hn
  have hcmd : Reg.ofNumber n ≠ .cmd := mt (Reg.ofNumber_eq_cmd_iff n).1 (by omega)
  have hun : Reg.ofNumber n ≠ .unassigned := mt (Reg.ofNumber_eq_unassigned_iff n).1 (by omega)
  obtain ⟨hf, rfl⟩ := eq_storeReg_of_performAction_wr h hcmd
  exact ⟨readReg_storeReg_same hw (HostAction.valueFits_iff.1 hf), fun m hm h1 =>
    readReg_storeReg_ne (Reg.ofNumber_ne hun hm) (Reg.ofNumber_ne (n := 1) (by decide) h1)⟩

/-- Settles O53: LDH writes the four words of H and LDHS those of one stream, and four writes of words are one of the
whole state. -/
theorem loadPseudoInstructions : Obligations.LoadPseudoInstructions := by
  refine fun s q => ⟨?_, fun n => ?_⟩
  · rw [runActions_asmLdh, writeH_eq]
  · rw [runActions_asmLdhs, setHs_eq]

end Sys2Proof.Machine
end

section
/-! The statements about command words and single steps (30_encoding.md, 60_exceptions.md). -/

namespace Sys2Proof.Machine

/-- Settles O2: a decoded word has its command's three fields, which make up the word. -/
theorem decodeAnswersExactlyTheEncodedWord : Obligations.DecodeAnswersExactlyTheEncodedWord := by
  refine fun i w _ => ⟨eq_encode_of_decode, ?_⟩
  rintro rfl
  exact decode_encode i

/-- Settles O4: the step takes the action, and the word, which is its command's own, passes the ERR gate. -/
theorem stepRunsTheDecodedCommand : Obligations.StepRunsTheDecodedCommand := by
  intro s w rest i hp hd hg
  obtain rfl := eq_encode_of_decode hd
  rw [step_of_pending_cons hp, performAction_cmd, writeCmd_encode (s := s.popAction rest) hg, State.popAction]

/-- Settles O5: with an empty list no action is taken. -/
theorem idleStepHoldsTheState : Obligations.IdleStepHoldsTheState := fun _ => step_of_pending_nil

/-- Settles O10: an error is a next state, and so is an effect. -/
theorem everyCommandAnswersNext : Obligations.EveryCommandAnswersNext := by
  intro i s
  obtain ⟨-, -, h⟩ | ⟨-, -, h⟩ | ⟨-, -, h⟩ := exec_cases i s <;> exact ⟨_, h⟩

end Sys2Proof.Machine
end

section
/-! SUPPORT. No action looks at the host's remaining list or at the index, so a program runs from the list as it runs by
itself (R33, R102). -/

namespace Sys2Proof.Machine

variable {a : HostAction} {i : Instr} {s t : State}

/-- The state with another list of actions to come and another index. -/
def State.withHostSide (s : State) (actions : List HostAction) (k : Nat) : State :=
  { s with pending := actions, index := k }

variable (p : List HostAction) (k : Nat)

theorem inRange_withHostSide (i : Instr) (s : State) : inRange (s.withHostSide p k) i ↔ inRange s i := by
  cases i <;> rfl

theorem effect_withHostSide (i : Instr) (s : State) :
    effect i (s.withHostSide p k) = (effect i s).withHostSide p k := by
  cases i
  case init => rfl
  all_goals
    simp [effect, writeH_eq, finishDigest_eq, setHs_eq, setOut_eq, setHex_eq, State.withHostSide, srcAddr, lenBytes,
      blockCount]

theorem readReg_withHostSide (s : State) (r : Reg) : readReg (s.withHostSide p k) r = readReg s r := by
  cases r <;> rfl

theorem storeReg_withHostSide (s : State) (v : DWord) (r : Reg) :
    storeReg (s.withHostSide p k) v r = (storeReg s v r).withHostSide p k := by
  cases r <;> rfl

theorem exec_withHostSide (h : exec i s = .next t) : exec i (s.withHostSide p k) = .next (t.withHostSide p k) := by
  obtain ⟨hd, hf, e⟩ | ⟨hf, hr, e⟩ | ⟨hf, hr, e⟩ := exec_cases i s <;> rw [e] at h <;> cases h
  · exact exec_of_stale (s := s.withHostSide p k) hd hf
  · exact exec_of_not_inRange (s := s.withHostSide p k) hf (mt (inRange_withHostSide p k i s).1 hr)
  · rw [← effect_withHostSide]
    exact exec_of_inRange (s := s.withHostSide p k) hf ((inRange_withHostSide p k i s).2 hr)

theorem writeCmd_withHostSide {w : Word} (h : writeCmd w s = .next t) :
    writeCmd w (s.withHostSide p k) = .next (t.withHostSide p k) := by
  obtain ⟨hs, hw, e⟩ | ⟨hg, ⟨c, hd⟩, e⟩ | ⟨hg, i, hd, e⟩ := writeCmd_cases w s <;> rw [e] at h
  · cases h
    exact writeCmd_of_err (s := s.withHostSide p k) hs hw
  · cases h
    have hs : s.status.err = false := hg.resolve_right (by rintro rfl; simp at hd)
    exact writeCmd_of_decode_error (s := s.withHostSide p k) hs hd
  · obtain rfl := eq_encode_of_decode hd
    rw [writeCmd_encode (s := s.withHostSide p k) hg]
    exact exec_withHostSide p k h

/-- An action does the same whatever actions follow it and however many came before. -/
theorem performAction_withHostSide (h : performAction a s = .next t) :
    performAction a (s.withHostSide p k) = .next (t.withHostSide p k) := by
  obtain ⟨rfl, rfl⟩ | ⟨n, rfl, rfl⟩ | ⟨addr, bytes, rfl, hb, rfl⟩ | ⟨n, v, rfl, hr, hf, rfl⟩ | ⟨w, rfl, hw⟩ :=
    performAction_cases h
  · rfl
  · rw [← readReg_withHostSide p k]
    rfl
  · simp [performAction, HostAction.rangeFits, State.withHostSide, hb, setMem_eq]
  · rw [performAction_wr hf hr, storeReg_withHostSide]
  · rw [performAction_cmd]
    exact writeCmd_withHostSide p k hw

/-- A step takes the first action of the list and advances the index by 1 (R33, R102). -/
theorem step_withHostSide_cons (h : performAction a s = .next t) :
    step (s.withHostSide (a :: p) k) = .next (t.withHostSide p (k + 1)) := by
  have pop : (s.withHostSide (a :: p) k).popAction p = s.withHostSide p (k + 1) := rfl
  rw [step_of_pending_cons (rest := p) rfl, pop, performAction_withHostSide p (k + 1) h]

/-- A program in front of the list runs in one step per action, and leaves what follows it waiting. -/
theorem run_withHostSide_append {actions : List HostAction} (h : runActions actions s = .next t) :
    Sys2Proof.core.run actions.length (s.withHostSide (actions ++ p) k) =
      .next (t.withHostSide p (k + actions.length)) := by
  induction actions generalizing s k with
  | nil =>
    cases h
    rfl
  | cons a rest ih =>
    obtain ⟨u, ha, hrest⟩ := runActions_cons_eq_next h
    have first : Sys2Proof.core.run (rest.length + 1) (s.withHostSide (a :: (rest ++ p)) k) =
        Sys2Proof.core.run rest.length (u.withHostSide (rest ++ p) (k + 1)) :=
      run_succ Sys2Proof.core rest.length (step_withHostSide_cons (rest ++ p) k ha)
    rw [List.length_cons, List.cons_append, first, ih (k + 1) hrest, Nat.add_assoc, Nat.add_comm 1]

end Sys2Proof.Machine
end

section
/-! The statement about programs as steps of the machine (30_encoding.md section 5). -/

namespace Sys2Proof.Machine

/-- Settles O54: by induction on the program, for any index, since no action looks at the host's side. -/
theorem programTakesOneStepPerAction : Obligations.ProgramTakesOneStepPerAction :=
  fun _ rest s _ h => run_withHostSide_append rest s.index h

end Sys2Proof.Machine
end

section
/-! SUPPORT. Laying out eight messages block by block deals each its own frames (43_batched_8way.md section 2). -/

namespace Sys2Proof.Machine

/-- Of m batches of blocks, stream n takes the n-th block of each (R210). -/
theorem streamBlocks_batches (n : Fin 8) (m : Nat) :
    streamBlocks n (List.range (8 * m)) = (List.range m).map fun t => 8 * t + n.val := by
  induction m with
  | zero => rfl
  | succ m ih =>
    have split : List.range (8 * (m + 1)) = List.range (8 * m) ++ List.range' (8 * m) 8 := by
      rw [List.range_eq_range', List.range_eq_range', Nat.mul_succ, ← List.range'_append_1, Nat.zero_add]
    have append (xs ys : List Nat) : streamBlocks n (xs ++ ys) = streamBlocks n xs ++ streamBlocks n ys :=
      List.filter_append ..
    rw [split, append, ih, streamBlocks_batch, List.range_succ, List.map_append, List.map_singleton]

/-- A chain over blocks that are the frames of a message, from IV, is the message's MD5 state (R233). -/
theorem compressBlocks_of_frames {m : List Host.Cell} {p count : Nat} {f : Nat → Nat} {msg : List Byte}
    (hcount : (frames msg).length = count)
    (hframes : ∀ t, t < count → blockAt m (p + 64 * f t) = (frames msg).getD t []) :
    compressBlocks m p ((List.range count).map f) iv = md5state msg := by
  have blocks : (List.range count).map (fun t => blockAt m (p + 64 * f t)) = frames msg := by
    refine List.ext_getElem (by simp [hcount]) fun t ht ht' => ?_
    rw [List.getElem_map, List.getElem_range, hframes t (hcount ▸ ht'), List.getD_eq_getElem _ _ ht']
  rw [md5state, ← blocks, compressBlocks, List.foldl_map, List.foldl_map]

end Sys2Proof.Machine
end

section
/-! The statements about the transforms as repeated or parallel chains (41_scalar_transform.md, 43_batched_8way.md). -/

namespace Sys2Proof.Machine

/-- Settles O38: both are the chain over the blocks 0 .. n-1, whose addresses do not wrap. -/
theorem xfrmnIsRepeatedXfrm : Obligations.XfrmnIsRepeatedXfrm := by
  intro ip hip s t hmax hs hr ht
  have paths : ip.1 ∈ [Instr.xfrmnS, .xfrmnV] ∧ ip.2 ∈ [Instr.xfrmS, .xfrmV] := by
    obtain rfl | rfl := List.mem_pair.1 hip <;> decide
  rw [exec_xfrmn_ok paths.1 hr] at ht
  cases ht
  exact runActions_flatMap_asmXfrm paths.2 s.src hs hmax fun j hj => by
    have := List.mem_range.1 hj
    omega

/-- Settles O42: stream n takes the blocks n, n + 8, ..., which hold the frames of message n, from IV on. -/
theorem eightMessagesInOneBatchedRun : Obligations.EightMessagesInOneBatchedRun := by
  intro s msgs m hcount hnblk hr hlayout
  have batched := exec_xfrmnB_ok (s := freshInstance s) (by simpa [hnblk] using hr)
  rw [← performAction_command_of_not_err .xfrmnB (by simp)] at batched
  refine ⟨_, by rw [runActions_cons_next (performAction_command_init s), runActions_cons_next batched, runActions],
    fun n => ?_⟩
  simp only [freshInstance_mem, freshInstance_src, freshInstance_nblk, freshInstance_hs, hnblk]
  rw [get_dealBlocks, ivBank_get, streamBlocks_batches]
  exact compressBlocks_of_frames (hcount n) (hlayout n)

/-- Settles O35: one batch compresses each stream's own block into it, and equal bytes are equal blocks. -/
theorem lanesAreIndependent : Obligations.LanesAreIndependent := by
  intro m m' hs hs' p p' n n' hq hbytes
  have block : blockAt m (p + 64 * n.val) = blockAt m' (p' + 64 * n'.val) := memRead_congr hbytes
  rw [get_batch8, get_batch8, hq, block]

end Sys2Proof.Machine
end

section
/-! SUPPORT. INIT and a DIGEST on any path: the whole end state (R241 to R244). H stays from a DIGEST to the end of a
run that does not write it (R22, R313). The programs of R100 that digest a message. -/

namespace Sys2Proof.Machine

variable {a : HostAction} {i : Instr} {s t : State}

theorem mem_digests_of_isDigest (hi : isDigest i = true) : i ∈ [Instr.digestS, .digestV, .digestB] := by
  cases i
  case digestS | digestV | digestB => decide
  all_goals cases hi

theorem bytesRead_of_isDigest (hi : isDigest i = true) (s : State) : bytesRead s i = some s.len.toNat := by
  cases i
  case digestS | digestV | digestB => rfl
  all_goals cases hi

/-- After INIT and a DIGEST on any path the engine's registers hold the message's MD5 state and the values of INIT. -/
theorem runActions_init_digest (hi : i ∈ [Instr.digestS, .digestV, .digestB])
    (hr : s.src.toNat + s.len.toNat ≤ s.memSize) :
    runActions [command .init, command i] s = .next (finishDigest (md5state (message s)) (freshInstance s)) := by
  have digest : performAction (command i) (freshInstance s) =
      .next (finishDigest (md5state (message s)) (freshInstance s)) :=
    performAction_digest hi (by simp) (by simp) (by simp) (by simpa using hr)
  rw [runActions_cons_next (performAction_command_init s), runActions_cons_next digest, runActions]

/-! ### Actions that do not write H -/

theorem mayWriteH_command (i : Instr) :
    (command i).mayWriteH = (i == .init || isDigest i || transformsH i) := by
  cases i <;> decide

theorem mayWriteH_of_writesH (ha : a.WritesH) : a.mayWriteH = true := by
  obtain ⟨k, v, rfl⟩ := ha
  have hk : Reg.ofNumber (8 + k.val) = .h k := Reg.ofNumber_number (.h k)
  simp [HostAction.mayWriteH, hk]

/-- H stays where no action of R313's list comes. -/
theorem h_kept (ha : a.mayWriteH = false) (h : performAction a s = .next t) : t.h = s.h := by
  have hcommand : ∀ i, a = command i → (i == .init || isDigest i || transformsH i) = false := by
    rintro i rfl
    rwa [← mayWriteH_command]
  cases performAction_statusEffect h with
  | restarted hrestart =>
    obtain rfl | hinit := hrestart
    · cases ha
    · exact absurd (hcommand _ hinit) (by decide)
  | wroteH hwrite =>
    obtain hwrite | ⟨i, hi, hc, -⟩ := hwrite
    · exact absurd (mayWriteH_of_writesH hwrite) (by simp [ha])
    · exact absurd (hcommand i hc) (by simp [hi])
  | digested i hi hc => exact absurd (hcommand i hc) (by simp [hi])
  | raised _ _ hh => exact hh
  | kept _ hh => exact hh

theorem runActions_h_kept {actions : List HostAction} (ha : ∀ a ∈ actions, a.mayWriteH = false)
    (h : runActions actions s = .next t) : t.h = s.h := by
  induction actions generalizing s with
  | nil =>
    cases h
    rfl
  | cons a rest ih =>
    obtain ⟨u, hu, hrest⟩ := runActions_cons_eq_next h
    rw [ih (fun b hb => ha b (List.mem_cons_of_mem a hb)) hrest, h_kept (ha a List.mem_cons_self) hu]

/-- A run from a DIGEST that succeeds leaves the message's MD5 state in H, where nothing after it writes H. -/
theorem runActions_digest_h {after : List HostAction} (hi : isDigest i = true) (hf : s.status.fresh = true)
    (he : s.status.err = false) (hh : s.h = iv) (hr : inRange s i) (hafter : ∀ a ∈ after, a.mayWriteH = false)
    (h : runActions (command i :: after) s = .next t) : t.h = md5state (message s) := by
  have digest := performAction_digest (mem_digests_of_isDigest hi) hf he hh
    ((inRange_iff (bytesRead_of_isDigest hi s)).1 hr)
  rw [runActions_cons_next digest] at h
  rw [runActions_h_kept hafter h, finishDigest_h]

/-! ### The assembler's lines -/

theorem performAction_wr_len (v : DWord) (s : State) :
    performAction (.wr (Reg.number .len) v) s = .next (s.setLen v) := rfl

/-- `DIGEST.p src, len` on a fresh state (R100, R242). -/
theorem runActions_asmDigest {src len : DWord} (hi : i ∈ [Instr.digestS, .digestV, .digestB])
    (hf : s.status.fresh = true) (he : s.status.err = false) (hh : s.h = iv)
    (hr : src.toNat + len.toNat ≤ s.memSize) :
    runActions (asmDigest i src len) s =
      .next (finishDigest (md5state (memRead s.mem src.toNat len.toNat)) ((s.setSrc src).setLen len)) := by
  have digest := performAction_digest (s := (s.setSrc src).setLen len) hi hf he hh hr
  rw [asmDigest, runActions_cons_next (performAction_wr_src src s), runActions_cons_next (performAction_wr_len len _),
    runActions_cons_next digest, runActions]
  rfl

/-- GETHASH and GETHEX render the same H (R247, R248). -/
theorem runActions_getHash_getHex (he : s.status.err = false) :
    runActions [command .getHash, command .getHex] s =
      .next ((s.setOut (digestBytes s.h)).setHex (hexString (digestBytes s.h))) := by
  have hash : performAction (command .getHash) s = .next (s.setOut (digestBytes s.h)) :=
    performAction_command_of_not_err .getHash he
  have hex : performAction (command .getHex) (s.setOut (digestBytes s.h)) =
      .next ((s.setOut (digestBytes s.h)).setHex (hexString (digestBytes s.h))) :=
    performAction_command_of_not_err .getHex (s := s.setOut (digestBytes s.h)) he
  rw [runActions_cons_next hash, runActions_cons_next hex, runActions]

/-- STATUS after INIT and a DIGEST (R34). -/
theorem Status.atReset_digestDone_toWord : Status.atReset.digestDone.toWord = 0x00000002 := by decide

/-- `MD5 src, len` as one update of the state (R100). -/
theorem runActions_asmMd5 {src len : DWord} (hr : src.toNat + len.toNat ≤ s.memSize) :
    runActions (asmMd5 src len) s =
      .next { s with
        h := md5state (memRead s.mem src.toNat len.toNat), hs := ivBank, src := src, len := len,
        status := Status.atReset.digestDone, out := md5 (memRead s.mem src.toNat len.toNat),
        hex := hexString (md5 (memRead s.mem src.toNat len.toNat)) } := by
  have digest := runActions_asmDigest (i := .digestS) (s := freshInstance s) (by decide) (by simp) (by simp) (by simp)
    hr
  rw [asmMd5, List.cons_append, runActions_cons_next (performAction_command_init s), runActions_append_next digest,
    runActions_getHash_getHex (by simp), finishDigest_h, ← md5]
  rfl

end Sys2Proof.Machine
end

section
/-! The statements about the digest of a message (44_digest_driver.md, 70_reset_and_hazards.md). -/

namespace Sys2Proof.Machine

/-- Settles O47: the full blocks and the one or two assembled frames are the frames of the message. -/
theorem paddingProcedureChainsTheFrames : Obligations.PaddingProcedureChainsTheFrames :=
  ⟨digestProcedure_eq_foldl_frames, fun m p len => digestProcedure_eq_foldl_frames compress m p len iv⟩

/-- Settles O55: INIT passes the ERR gate, so every state leads to `freshInstance`, and the digest made from it is
rendered twice. -/
theorem md5ProgramDigestsTheMessage : Obligations.Md5ProgramDigestsTheMessage :=
  fun _ _ _ hr => ⟨_, runActions_asmMd5 hr, Status.atReset_digestDone_toWord, rfl⟩

/-- Settles O56: after INIT and a DIGEST the engine's registers are functions of the message. -/
theorem digestDependsOnTheMessageOnly : Obligations.DigestDependsOnTheMessageOnly := by
  intro s1 s2 i1 i2 hi1 hi2 hr1 hr2 hmsg
  have hmessage : message s1 = message s2 := hmsg
  refine ⟨_, _, runActions_init_digest (mem_digests_of_isDigest hi1) hr1,
    runActions_init_digest (mem_digests_of_isDigest hi2) hr2, ?_⟩
  simp [hmessage]

/-- Settles O57: the invariant holds up to the DIGEST, so it starts from IV and leaves the message's state in H, which
nothing after it writes. -/
theorem producedDigestIsMd5OfTheMessage : Obligations.ProducedDigestIsMd5OfTheMessage := by
  rintro actions s0 t msg hinv ⟨before, after, i, s, -, hi, hbefore, he, hf, hr, rfl, hrun, hafter, -, -⟩
  obtain ⟨hiv, -⟩ := runActions_keepsInv hinv hbefore
  have hh : t.h = md5state (message s) :=
    runActions_digest_h hi hf he (hiv hf) hr (fun a ha => by simpa using List.all_eq_true.1 hafter a ha) hrun
  exact ⟨hh, congrArg digestBytes hh⟩

end Sys2Proof.Machine
end
